-- ==== Sys2Proof/Word.lean ====
section
/-! DEFINITION. The word types of the block: 00_scope.md R8 to R10 (bit numbering, unsigned arithmetic),
10_state.md R20 (register widths), 30_encoding.md R81 (field widths). -/

namespace Sys2Proof

/-- A byte: a V register, a timer, a memory cell (00_scope.md R8, 10_state.md R21). -/
abbrev Byte := BitVec 8

/-- A 16-bit word: an opcode, I, PC, a stack entry (00_scope.md R8, 10_state.md R24, R26, R28). -/
abbrev Word := BitVec 16

/-- A 4-bit field of an opcode, or the row count n of Dxyn (30_encoding.md R81, R82). -/
abbrev Nibble := BitVec 4

/-- The 12-bit address field nnn (30_encoding.md R81). -/
abbrev Addr12 := BitVec 12

/-- A register number 0 to 15: the fields x and y (30_encoding.md R82) and WAIT_X (10_state.md R38). -/
abbrev Reg := Fin 16

/-- A key index 0x0 to 0xF (10_state.md R35). -/
abbrev Key := Fin 16

/-- VF, the flag register, is V[15] (10_state.md R22). -/
abbrev regF : Reg := 15

end Sys2Proof
end

