-- ==== Sys2Proof/Config.lean ====
section
/-! DEFINITION. What the block fixes for a run: the sizes of 00_scope.md R6 that the model hard-wires, the
parameters of R6 that it takes as an argument (their values for this hardware are `Machine.hwParams`), and the
free random byte of R13. -/

namespace Sys2Proof

/-- MEM_SIZE, bytes of memory (00_scope.md R6, fixed). -/
abbrev memSize : Nat := 4096

/-- STACK_DEPTH, call-stack entries (00_scope.md R6, source default; hard-wired: log entry 12). -/
abbrev stackDepth : Nat := 16

/-- DISP_W, columns of the display (00_scope.md R6, fixed). -/
abbrev dispW : Nat := 64

/-- DISP_H, rows of the display (00_scope.md R6, fixed). -/
abbrev dispH : Nat := 32

/-- NUM_KEYS, entries of the key latch (00_scope.md R6, fixed). -/
abbrev numKeys : Nat := 16

/-- The bytes of the built-in font: 16 glyphs of 5 bytes (20_memory.md R62). -/
abbrev fontSize : Nat := 80

/-- LS_INCREMENT (00_scope.md R6): I after Fx55 and Fx65. -/
inductive LsIncrement where
  | unchanged   -- `none`
  | xPlus1      -- `x_plus_1`
deriving DecidableEq, Repr

/-- SHIFT_SRC (00_scope.md R6): the source operand of 8xy6 and 8xyE. -/
inductive ShiftSrc where
  | vx
  | vy
deriving DecidableEq, Repr

/-- BORROW_SENSE (00_scope.md R6): VF after 8xy5 and 8xy7. -/
inductive BorrowSense where
  | underflow   -- 1 when a borrow occurred
  | notBorrow   -- 1 when no borrow occurred
deriving DecidableEq, Repr

/-- KEY_INDEX_MODE (00_scope.md R6): Ex9E and ExA1 with V[x] above 0xF. -/
inductive KeyIndexMode where
  | mask
  | fault
deriving DecidableEq, Repr

/-- KEY_WAIT_MODE (00_scope.md R6): which key satisfies Fx0A. -/
inductive KeyWaitMode where
  | level
  | edge
deriving DecidableEq, Repr

/-- The parameters of 00_scope.md R6 that the model keeps as arguments (R7). -/
structure Config where
  /-- PROGRAM_START: load offset, reset PC, lower bound of the program area. -/
  programStart : Word
  /-- FONT_BASE: address of glyph 0. -/
  fontBase : Word
  lsIncrement : LsIncrement
  shiftSrc : ShiftSrc
  /-- LOGIC_VF_RESET: whether 8xy1, 8xy2 and 8xy3 also set VF to 0. -/
  logicVfReset : Bool
  borrowSense : BorrowSense
  keyIndexMode : KeyIndexMode
  keyWaitMode : KeyWaitMode
  /-- ALIGN_CHECK: a fetch at an odd PC raises MisalignedPC. -/
  alignCheck : Bool
  /-- GUARD_RESERVED: a fetch or a data write below PROGRAM_START raises ReservedRegion. -/
  guardReserved : Bool
deriving DecidableEq, Repr

/-- The random byte `Rand()` of 00_scope.md R13 and 60_exceptions.md R230, one for each draw number. It has no
body: nothing constrains a draw (free value, log entry 2). -/
opaque Config.randByte : Nat → Byte

end Sys2Proof
end

