-- ==== Sys2Proof/Syntax.lean ====
section
/-! DEFINITION. The instructions: one constructor for each of the 34 rows of 30_encoding.md R90
(spec/opcode_table.json), in the table's order. Operand fields have the widths of R81, so no instruction holds
an operand that its encoding cannot. -/

namespace Sys2Proof

inductive Instr where
  /-- 00E0 CLS (R181). -/
  | cls
  /-- 00EE RET (R110). -/
  | ret
  /-- 1nnn JP nnn (R111). -/
  | jp (nnn : Addr12)
  /-- 2nnn CALL nnn (R112). -/
  | call (nnn : Addr12)
  /-- 3xkk SE Vx, kk (R113). -/
  | seKk (x : Reg) (kk : Byte)
  /-- 4xkk SNE Vx, kk (R114). -/
  | sneKk (x : Reg) (kk : Byte)
  /-- 5xy0 SE Vx, Vy (R115). -/
  | seVy (x y : Reg)
  /-- 6xkk LD Vx, kk (R132). -/
  | ldKk (x : Reg) (kk : Byte)
  /-- 7xkk ADD Vx, kk (R133). -/
  | addKk (x : Reg) (kk : Byte)
  /-- 8xy0 LD Vx, Vy (R134). -/
  | ldVy (x y : Reg)
  /-- 8xy1 OR Vx, Vy (R135). -/
  | orVy (x y : Reg)
  /-- 8xy2 AND Vx, Vy (R136). -/
  | andVy (x y : Reg)
  /-- 8xy3 XOR Vx, Vy (R137). -/
  | xorVy (x y : Reg)
  /-- 8xy4 ADD Vx, Vy (R138). -/
  | addVy (x y : Reg)
  /-- 8xy5 SUB Vx, Vy (R139). -/
  | subVy (x y : Reg)
  /-- 8xy6 SHR Vx, Vy (R140). -/
  | shrVy (x y : Reg)
  /-- 8xy7 SUBN Vx, Vy (R141). -/
  | subnVy (x y : Reg)
  /-- 8xyE SHL Vx, Vy (R142). -/
  | shlVy (x y : Reg)
  /-- 9xy0 SNE Vx, Vy (R116). -/
  | sneVy (x y : Reg)
  /-- Annn LD I, nnn (R160). -/
  | ldI (nnn : Addr12)
  /-- Bnnn JP V0, nnn (R117). -/
  | jpV0 (nnn : Addr12)
  /-- Cxkk RND Vx, kk (R143). -/
  | rnd (x : Reg) (kk : Byte)
  /-- Dxyn DRW Vx, Vy, n (R182). -/
  | drw (x y : Reg) (n : Nibble)
  /-- Ex9E SKP Vx (R190). -/
  | skp (x : Reg)
  /-- ExA1 SKNP Vx (R191). -/
  | sknp (x : Reg)
  /-- Fx07 LD Vx, DT (R193). -/
  | ldVxDt (x : Reg)
  /-- Fx0A LD Vx, K (R196). -/
  | ldVxK (x : Reg)
  /-- Fx15 LD DT, Vx (R194). -/
  | ldDtVx (x : Reg)
  /-- Fx18 LD ST, Vx (R195). -/
  | ldStVx (x : Reg)
  /-- Fx1E ADD I, Vx (R161). -/
  | addIVx (x : Reg)
  /-- Fx29 LD F, Vx (R162). -/
  | ldFVx (x : Reg)
  /-- Fx33 LD B, Vx (R163). -/
  | ldBVx (x : Reg)
  /-- Fx55 LD [I], Vx (R164). -/
  | ldMemVx (x : Reg)
  /-- Fx65 LD Vx, [I] (R165). -/
  | ldVxMem (x : Reg)
deriving DecidableEq, Repr

end Sys2Proof
end

