-- ==== Sys2Proof/WellFormed.lean ====
section
/-! DEFINITION. What a choice of parameters must satisfy (20_memory.md R52) and what a LOAD argument must satisfy
(20_memory.md R70). An instruction needs no check of its own: `Instr` gives every operand exactly the values its
field can hold (30_encoding.md R81, R82), so every term of `Instr` is well formed. -/

namespace Sys2Proof

/-- FONT_BASE + 80 ≤ PROGRAM_START (20_memory.md R52). -/
def Config.fontFits (c : Config) : Bool :=
  decide (c.fontBase.toNat + fontSize ≤ c.programStart.toNat)

/-- The program area PROGRAM_START .. MEM_SIZE-1 lies in memory (00_scope.md, Glossary). -/
def Config.programAreaFits (c : Config) : Bool :=
  decide (c.programStart.toNat ≤ memSize)

/-- A legal choice of the parameters. -/
def Config.wf (c : Config) : Bool := c.fontFits && c.programAreaFits

/-- A ROM fits when it holds at most MEM_SIZE - PROGRAM_START bytes (20_memory.md R70). -/
def Config.romFits (c : Config) (rom : List Byte) : Bool :=
  decide (rom.length ≤ memSize - c.programStart.toNat)

end Sys2Proof
end

