-- ==== Sys2Proof/Decode.lean ====
section
/-! DEFINITION. The decoder (30_encoding.md R80 to R94) and, after it, the encoder written from the same table
(R90). Instructions are fetched big-endian (20_memory.md R53). -/

namespace Sys2Proof

/-! ### Fields (R81) -/

/-- op[15:12], the family. -/
def fieldFamily (op : Word) : Nibble := op.extractLsb' 12 4

/-- x = op[11:8], a register number. -/
def fieldX (op : Word) : Reg := (op.extractLsb' 8 4).toFin

/-- y = op[7:4], a register number. -/
def fieldY (op : Word) : Reg := (op.extractLsb' 4 4).toFin

/-- n = lo4 = op[3:0]. -/
def fieldN (op : Word) : Nibble := op.extractLsb' 0 4

/-- kk = lo8 = op[7:0]. -/
def fieldKk (op : Word) : Byte := op.extractLsb' 0 8

/-- nnn = op[11:0]. -/
def fieldNnn (op : Word) : Addr12 := op.extractLsb' 0 12

/-! ### Decode (R83 to R93). `none` is UnknownOpcode. -/

/-- Family 0x0 decodes on the whole word (R84, R93). -/
def decodeFamily0 (op : Word) : Option Instr :=
  if op = 0x00E0#16 then some .cls
  else if op = 0x00EE#16 then some .ret
  else none

/-- Family 0x8 dispatches on lo4 (R85). The low nibbles of SUB, SHR, SUBN and SHL are general knowledge in the
spec itself (log entry 9). -/
def decodeFamily8 (lo4 : Nibble) (x y : Reg) : Option Instr :=
  if lo4 = 0x0#4 then some (.ldVy x y)
  else if lo4 = 0x1#4 then some (.orVy x y)
  else if lo4 = 0x2#4 then some (.andVy x y)
  else if lo4 = 0x3#4 then some (.xorVy x y)
  else if lo4 = 0x4#4 then some (.addVy x y)
  else if lo4 = 0x5#4 then some (.subVy x y)
  else if lo4 = 0x6#4 then some (.shrVy x y)
  else if lo4 = 0x7#4 then some (.subnVy x y)
  else if lo4 = 0xE#4 then some (.shlVy x y)
  else none

/-- Family 0xE dispatches on lo8 (R86). -/
def decodeFamilyE (lo8 : Byte) (x : Reg) : Option Instr :=
  if lo8 = 0x9E#8 then some (.skp x)
  else if lo8 = 0xA1#8 then some (.sknp x)
  else none

/-- Family 0xF dispatches on lo8 (R87). -/
def decodeFamilyF (lo8 : Byte) (x : Reg) : Option Instr :=
  if lo8 = 0x07#8 then some (.ldVxDt x)
  else if lo8 = 0x0A#8 then some (.ldVxK x)
  else if lo8 = 0x15#8 then some (.ldDtVx x)
  else if lo8 = 0x18#8 then some (.ldStVx x)
  else if lo8 = 0x1E#8 then some (.addIVx x)
  else if lo8 = 0x29#8 then some (.ldFVx x)
  else if lo8 = 0x33#8 then some (.ldBVx x)
  else if lo8 = 0x55#8 then some (.ldMemVx x)
  else if lo8 = 0x65#8 then some (.ldVxMem x)
  else none

/-- Families 0x5 and 0x9 need lo4 = 0 (R88, 90_conflicts.md C1). -/
def decodeLo4Zero (lo4 : Nibble) (i : Instr) : Option Instr :=
  if lo4 = 0x0#4 then some i else none

/-- Decode, a pure function of the word (R83); the families of R89 decode whatever their other 12 bits hold. -/
def decodeWord (op : Word) : Option Instr :=
  if fieldFamily op = 0x0#4 then decodeFamily0 op
  else if fieldFamily op = 0x1#4 then some (.jp (fieldNnn op))
  else if fieldFamily op = 0x2#4 then some (.call (fieldNnn op))
  else if fieldFamily op = 0x3#4 then some (.seKk (fieldX op) (fieldKk op))
  else if fieldFamily op = 0x4#4 then some (.sneKk (fieldX op) (fieldKk op))
  else if fieldFamily op = 0x5#4 then decodeLo4Zero (fieldN op) (.seVy (fieldX op) (fieldY op))
  else if fieldFamily op = 0x6#4 then some (.ldKk (fieldX op) (fieldKk op))
  else if fieldFamily op = 0x7#4 then some (.addKk (fieldX op) (fieldKk op))
  else if fieldFamily op = 0x8#4 then decodeFamily8 (fieldN op) (fieldX op) (fieldY op)
  else if fieldFamily op = 0x9#4 then decodeLo4Zero (fieldN op) (.sneVy (fieldX op) (fieldY op))
  else if fieldFamily op = 0xA#4 then some (.ldI (fieldNnn op))
  else if fieldFamily op = 0xB#4 then some (.jpV0 (fieldNnn op))
  else if fieldFamily op = 0xC#4 then some (.rnd (fieldX op) (fieldKk op))
  else if fieldFamily op = 0xD#4 then some (.drw (fieldX op) (fieldY op) (fieldN op))
  else if fieldFamily op = 0xE#4 then decodeFamilyE (fieldKk op) (fieldX op)
  else decodeFamilyF (fieldKk op) (fieldX op)

/-- Why bytes are no instruction. -/
inductive DecodeError where
  /-- The word matches no row of R90 (R91). -/
  | unknownOpcode (op : Word)
  /-- Fewer than two bytes: no opcode can be read (R80). -/
  | truncated
deriving DecidableEq, Repr

/-- The opcode held by two bytes, the first at the lower address: big-endian (20_memory.md R53). -/
def wordOfBytes (hi lo : Byte) : Word := hi ++ lo

/-- The decoder on bytes: total, rejecting by name, giving the instruction and the bytes after it. -/
def decode : List Byte → Except DecodeError (Instr × List Byte)
  | hi :: lo :: rest =>
    match decodeWord (wordOfBytes hi lo) with
    | some i => .ok (i, rest)
    | none => .error (.unknownOpcode (wordOfBytes hi lo))
  | _ => .error .truncated

/-! ### The formats of R81 and the encoder (R90) -/

/-- The 4 bits of a register number. -/
def regBits (r : Reg) : Nibble := BitVec.ofFin r

/-- The format op | nnn. -/
def wordNnn (f : Nibble) (nnn : Addr12) : Word := f ++ nnn

/-- The format op | x | kk. -/
def wordXkk (f : Nibble) (x : Reg) (kk : Byte) : Word := f ++ regBits x ++ kk

/-- The format op | x | y | n. -/
def wordXyn (f : Nibble) (x y : Reg) (n : Nibble) : Word := f ++ regBits x ++ regBits y ++ n

/-- The word of an instruction (R90); every instruction is one word (R80). -/
def encode : Instr → Word
  | .cls => 0x00E0#16
  | .ret => 0x00EE#16
  | .jp nnn => wordNnn 0x1#4 nnn
  | .call nnn => wordNnn 0x2#4 nnn
  | .seKk x kk => wordXkk 0x3#4 x kk
  | .sneKk x kk => wordXkk 0x4#4 x kk
  | .seVy x y => wordXyn 0x5#4 x y 0x0#4
  | .ldKk x kk => wordXkk 0x6#4 x kk
  | .addKk x kk => wordXkk 0x7#4 x kk
  | .ldVy x y => wordXyn 0x8#4 x y 0x0#4
  | .orVy x y => wordXyn 0x8#4 x y 0x1#4
  | .andVy x y => wordXyn 0x8#4 x y 0x2#4
  | .xorVy x y => wordXyn 0x8#4 x y 0x3#4
  | .addVy x y => wordXyn 0x8#4 x y 0x4#4
  | .subVy x y => wordXyn 0x8#4 x y 0x5#4
  | .shrVy x y => wordXyn 0x8#4 x y 0x6#4
  | .subnVy x y => wordXyn 0x8#4 x y 0x7#4
  | .shlVy x y => wordXyn 0x8#4 x y 0xE#4
  | .sneVy x y => wordXyn 0x9#4 x y 0x0#4
  | .ldI nnn => wordNnn 0xA#4 nnn
  | .jpV0 nnn => wordNnn 0xB#4 nnn
  | .rnd x kk => wordXkk 0xC#4 x kk
  | .drw x y n => wordXyn 0xD#4 x y n
  | .skp x => wordXkk 0xE#4 x 0x9E#8
  | .sknp x => wordXkk 0xE#4 x 0xA1#8
  | .ldVxDt x => wordXkk 0xF#4 x 0x07#8
  | .ldVxK x => wordXkk 0xF#4 x 0x0A#8
  | .ldDtVx x => wordXkk 0xF#4 x 0x15#8
  | .ldStVx x => wordXkk 0xF#4 x 0x18#8
  | .addIVx x => wordXkk 0xF#4 x 0x1E#8
  | .ldFVx x => wordXkk 0xF#4 x 0x29#8
  | .ldBVx x => wordXkk 0xF#4 x 0x33#8
  | .ldMemVx x => wordXkk 0xF#4 x 0x55#8
  | .ldVxMem x => wordXkk 0xF#4 x 0x65#8

/-- The bytes of a word in memory order: big-endian (20_memory.md R53). -/
def bytesOfWord (op : Word) : List Byte := [op.extractLsb' 8 8, op.extractLsb' 0 8]

/-! ### The opcode map as data (R90) -/

/-- One row of the opcode map: a word is the row's instruction when `op &&& mask = value`. -/
structure OpcodeRow where
  mask : Word
  value : Word
deriving DecidableEq, Repr

/-- The row of R90 an instruction belongs to. -/
def rowOf : Instr → OpcodeRow
  | .cls => ⟨0xFFFF#16, 0x00E0#16⟩
  | .ret => ⟨0xFFFF#16, 0x00EE#16⟩
  | .jp _ => ⟨0xF000#16, 0x1000#16⟩
  | .call _ => ⟨0xF000#16, 0x2000#16⟩
  | .seKk _ _ => ⟨0xF000#16, 0x3000#16⟩
  | .sneKk _ _ => ⟨0xF000#16, 0x4000#16⟩
  | .seVy _ _ => ⟨0xF00F#16, 0x5000#16⟩
  | .ldKk _ _ => ⟨0xF000#16, 0x6000#16⟩
  | .addKk _ _ => ⟨0xF000#16, 0x7000#16⟩
  | .ldVy _ _ => ⟨0xF00F#16, 0x8000#16⟩
  | .orVy _ _ => ⟨0xF00F#16, 0x8001#16⟩
  | .andVy _ _ => ⟨0xF00F#16, 0x8002#16⟩
  | .xorVy _ _ => ⟨0xF00F#16, 0x8003#16⟩
  | .addVy _ _ => ⟨0xF00F#16, 0x8004#16⟩
  | .subVy _ _ => ⟨0xF00F#16, 0x8005#16⟩
  | .shrVy _ _ => ⟨0xF00F#16, 0x8006#16⟩
  | .subnVy _ _ => ⟨0xF00F#16, 0x8007#16⟩
  | .shlVy _ _ => ⟨0xF00F#16, 0x800E#16⟩
  | .sneVy _ _ => ⟨0xF00F#16, 0x9000#16⟩
  | .ldI _ => ⟨0xF000#16, 0xA000#16⟩
  | .jpV0 _ => ⟨0xF000#16, 0xB000#16⟩
  | .rnd _ _ => ⟨0xF000#16, 0xC000#16⟩
  | .drw _ _ _ => ⟨0xF000#16, 0xD000#16⟩
  | .skp _ => ⟨0xF0FF#16, 0xE09E#16⟩
  | .sknp _ => ⟨0xF0FF#16, 0xE0A1#16⟩
  | .ldVxDt _ => ⟨0xF0FF#16, 0xF007#16⟩
  | .ldVxK _ => ⟨0xF0FF#16, 0xF00A#16⟩
  | .ldDtVx _ => ⟨0xF0FF#16, 0xF015#16⟩
  | .ldStVx _ => ⟨0xF0FF#16, 0xF018#16⟩
  | .addIVx _ => ⟨0xF0FF#16, 0xF01E#16⟩
  | .ldFVx _ => ⟨0xF0FF#16, 0xF029#16⟩
  | .ldBVx _ => ⟨0xF0FF#16, 0xF033#16⟩
  | .ldMemVx _ => ⟨0xF0FF#16, 0xF055#16⟩
  | .ldVxMem _ => ⟨0xF0FF#16, 0xF065#16⟩

/-- The 34 rows of R90, each named by one of its instructions. -/
def opcodeTable : List OpcodeRow :=
  [.cls, .ret, .jp 0, .call 0, .seKk 0 0, .sneKk 0 0, .seVy 0 0, .ldKk 0 0, .addKk 0 0].map rowOf ++
  [.ldVy 0 0, .orVy 0 0, .andVy 0 0, .xorVy 0 0, .addVy 0 0, .subVy 0 0, .shrVy 0 0, .subnVy 0 0, .shlVy 0 0].map rowOf ++
  [.sneVy 0 0, .ldI 0, .jpV0 0, .rnd 0 0, .drw 0 0 0, .skp 0, .sknp 0].map rowOf ++
  [.ldVxDt 0, .ldVxK 0, .ldDtVx 0, .ldStVx 0, .addIVx 0, .ldFVx 0, .ldBVx 0, .ldMemVx 0, .ldVxMem 0].map rowOf

/-- A word matches a row when `(op & mask) == match` (R90). -/
def OpcodeRow.matches (r : OpcodeRow) (op : Word) : Bool := decide (op &&& r.mask = r.value)

/-- A word is legal when it matches a row (R91). -/
def legalWord (op : Word) : Bool := opcodeTable.any fun r => r.matches op

/-! ### The host's question -/

/-- The word whose bits are `w`, cut to `nbits` bits; the bits above are 0. -/
def tableWord (nbits w : Nat) : Word := BitVec.ofNat 16 (w % 2 ^ nbits)

/-- What the decoder reads from an instruction whose bits are `w` as spec/opcode_table.json numbers them: its one
word laid out big-endian and given to `decode`. -/
def decodeTableWord (nbits w : Nat) : Option Instr :=
  match decode (bytesOfWord (tableWord nbits w)) with
  | .ok (i, _) => some i
  | .error _ => none

end Sys2Proof
end

