-- ==== Sys2Proof/Machine/Params.lean ====
section
/-! DEFINITION. The parameters' values for this hardware (00_scope.md R6), and the bytes of the built-in font
(20_memory.md R62). Log entries 1, 6 and 7. -/

namespace Sys2Proof.Machine

/-- The column "value for this hardware" of 00_scope.md R6. -/
def hwParams : Config where
  programStart := 0x200#16
  fontBase := 0x050#16
  lsIncrement := .unchanged
  shiftSrc := .vx
  logicVfReset := false
  borrowSense := .underflow
  keyIndexMode := .mask
  keyWaitMode := .level
  alignCheck := true
  guardReserved := true

/-- The glyphs of the digits 0 to 7, row 0 first (20_memory.md R62; UNVERIFIED in the spec itself, log entry 7). -/
def fontBytesLow : List Byte :=
  [0xF0, 0x90, 0x90, 0x90, 0xF0] ++ [0x20, 0x60, 0x20, 0x20, 0x70] ++
  [0xF0, 0x10, 0xF0, 0x80, 0xF0] ++ [0xF0, 0x10, 0xF0, 0x10, 0xF0] ++
  [0x90, 0x90, 0xF0, 0x10, 0x10] ++ [0xF0, 0x80, 0xF0, 0x10, 0xF0] ++
  [0xF0, 0x80, 0xF0, 0x90, 0xF0] ++ [0xF0, 0x10, 0x20, 0x40, 0x40]

/-- The glyphs of the digits 8 to F, row 0 first (20_memory.md R62; UNVERIFIED in the spec itself, log entry 7). -/
def fontBytesHigh : List Byte :=
  [0xF0, 0x90, 0xF0, 0x90, 0xF0] ++ [0xF0, 0x90, 0xF0, 0x10, 0xF0] ++
  [0xF0, 0x90, 0xF0, 0x90, 0x90] ++ [0xE0, 0x90, 0xE0, 0x90, 0xE0] ++
  [0xF0, 0x80, 0x80, 0x80, 0xF0] ++ [0xE0, 0x90, 0x90, 0x90, 0xE0] ++
  [0xF0, 0x80, 0xF0, 0x80, 0xF0] ++ [0xF0, 0x80, 0xF0, 0x80, 0x80]

/-- The 80 bytes of the font (20_memory.md R62). -/
def fontBytes : List Byte := fontBytesLow ++ fontBytesHigh

/-- What an address that nothing has written reads as: the font at FONT_BASE, and 0 elsewhere (10_state.md R46,
20_memory.md R52 and R62). -/
def initByte (c : Config) (a : Nat) : Byte :=
  if c.fontBase.toNat ≤ a ∧ a < c.fontBase.toNat + fontSize then fontBytes.getD (a - c.fontBase.toNat) 0 else 0

end Sys2Proof.Machine
end

