-- ==== Sys2Proof/Machine/State.lean ====
section
/-! DEFINITION. The state of the block: every piece of 10_state.md, and one field of the model's own (`draws`).
The reasons a step of the model can stop. The state right after CONSTRUCT. -/

namespace Sys2Proof.Machine

/-- RUNSTATE (10_state.md R40). -/
inductive RunState where
  | running
  | awaitingKey
  | halted
deriving DecidableEq, Repr

/-- FAULT_KIND: the fault kinds of the hardware (60_exceptions.md R211), `none` when no fault is recorded. Taking
one is a next state (R212), not a stop of the model. -/
inductive FaultKind where
  | none
  | unknownOpcode
  | stackUnderflow
  | stackOverflow
  | memoryOutOfBounds
  | misalignedPc
  | reservedRegion
  | keyIndexOutOfRange
deriving DecidableEq, Repr

/-- Why the MODEL stops. The hardware's own faults are not here: they are next states with RUNSTATE Halted. -/
inductive Fault where
  /-- Raised by CALL when SP > STACK_DEPTH and by RET when SP > STACK_DEPTH: the entry STACK[SP] or STACK[SP-1]
  does not exist. 10_state.md R25: "No other value is reachable." Safe (log entry 3). -/
  | stackPointerOutOfRange
deriving DecidableEq, Repr

/-- Why the model gives no meaning to an instruction. -/
inductive Refusal where
  /-- Raised by an arm of `exec` whose instruction has no meaning yet. Safe. No arm raises it. -/
  | notModelled (mnemonic : String)
deriving DecidableEq, Repr

/-- MEM as the bytes that differ from `initByte`: addresses strictly rising, no entry equal to what its address
reads as unlisted (10_state.md R45, 20_memory.md R50). -/
abbrev Memory := List Host.Cell

/-- DISP as rows of pixels: `disp[py][px]` (10_state.md R34). -/
abbrev Display := Vector (Vector Bool 64) 32

/-- The key latch, or a copy of it (10_state.md R35, R41). -/
abbrev Keys := Vector Bool 16

structure State where
  /-- V0 to VF (10_state.md R21). -/
  v : Vector Byte 16
  /-- The index register I (R24). -/
  i : Word
  /-- The program counter (R28). -/
  pc : Word
  /-- The stack pointer: the number of valid stack entries (R25). -/
  sp : Byte
  /-- The call stack (R26). -/
  stack : Vector Word 16
  /-- The delay timer (R32). -/
  dt : Byte
  /-- The sound timer (R33). -/
  st : Byte
  /-- The display buffer (R34). -/
  disp : Display
  /-- The key latch (R35). -/
  key : Keys
  /-- RUNSTATE (R40). -/
  runState : RunState
  /-- WAIT_X (R38). -/
  waitX : Reg
  /-- KEY_PREV (R41). -/
  keyPrev : Keys
  /-- FAULT_KIND (R39). -/
  faultKind : FaultKind
  /-- FAULT_PC (R39). -/
  faultPc : Word
  /-- FAULT_OP (R39). -/
  faultOp : Word
  /-- FAULT_ADDR (R39). -/
  faultAddr : Word
  /-- MEM (R45). -/
  mem : Memory
  /-- The model's own: how many random bytes have been drawn (log entry 2). -/
  draws : Nat
deriving DecidableEq, Repr

/-- Every field at the value of 10_state.md R46 after CONSTRUCT, for any parameters (70_reset_and_hazards.md
R240). The model's own `draws` starts at 0 (DESIGN CHOICE, log entry 2). -/
def State.initial (c : Config) : State where
  v := Vector.replicate 16 0
  i := 0
  pc := c.programStart
  sp := 0
  stack := Vector.replicate 16 0
  dt := 0
  st := 0
  disp := Vector.replicate 32 (Vector.replicate 64 false)
  key := Vector.replicate 16 false
  runState := .running
  waitX := 0
  keyPrev := Vector.replicate 16 false
  faultKind := .none
  faultPc := 0
  faultOp := 0
  faultAddr := 0
  mem := []
  draws := 0

/-- The machine right after CONSTRUCT, with this hardware's parameters. -/
def State.reset : State := State.initial hwParams

end Sys2Proof.Machine
end

