-- ==== Sys2Proof/Machine/Ops.lean ====
section
/-! DEFINITION. The named operations over registers and memory, the access checks, and taking a fault with what
leaves it (10_state.md, 20_memory.md, 42_index_memory.md, 60_exceptions.md, 70_reset_and_hazards.md). -/

namespace Sys2Proof.Machine

/-- What one STEP or one meaning answers. -/
abbrev Result := Host.Outcome State Fault Refusal

/-! ### Registers -/

/-- The register read V[r] (00_scope.md R9). None is hard-wired (10_state.md R21). -/
def State.getV (s : State) (r : Reg) : Byte := s.v[r.val]

/-- The register write V[r] <- b (00_scope.md R9). -/
def State.setV (s : State) (r : Reg) (b : Byte) : State := { s with v := s.v.set r.val b }

/-- KEY[k] (10_state.md R35). -/
def State.keyDown (s : State) (k : Key) : Bool := s.key[k.val]

/-- PC <- PC + 2: the fetch's advance (30_encoding.md R101) and a skip (40_control_flow.md R118). The 16-bit sum
never wraps in a reachable state (10_state.md R31; log entry 11). -/
def State.advance (s : State) : State := { s with pc := s.pc + 2 }

/-! ### Memory -/

/-- The byte at address `a` (00_scope.md R11). -/
def Memory.read (c : Config) : Memory → Nat → Byte
  | [], a => initByte c a
  | (k, b) :: rest, a => if a = k then b else Memory.read c rest a

/-- A cell in front of a memory, left out when it holds what its address reads as unlisted. -/
def Memory.cell (c : Config) (a : Nat) (b : Byte) (rest : Memory) : Memory :=
  if b = initByte c a then rest else (a, b) :: rest

/-- MEM[a] <- b, keeping the canonical form. -/
def Memory.write (c : Config) : Memory → Nat → Byte → Memory
  | [], a, b => Memory.cell c a b []
  | (k, v) :: rest, a, b =>
    if a < k then Memory.cell c a b ((k, v) :: rest)
    else if a = k then Memory.cell c a b rest
    else (k, v) :: Memory.write c rest a b

/-- MemWrite: the bytes at `a`, `a + 1`, … (00_scope.md R11). The addresses differ, so no order of the writes can
be told from another. -/
def Memory.writeBytes (c : Config) (m : Memory) : Nat → List Byte → Memory
  | _, [] => m
  | a, b :: bs => Memory.write c (Memory.writeBytes c m (a + 1) bs) a b

/-- MemRead: the `n` bytes at `a`, `a + 1`, … (00_scope.md R11). -/
def Memory.readBytes (c : Config) (m : Memory) (a n : Nat) : List Byte :=
  (List.range n).map fun j => Memory.read c m (a + j)

/-- The canonical form from address `lo` on: addresses strictly rising, inside MEM, and no entry equal to what its
address reads as unlisted. -/
def Memory.wfFrom (c : Config) : Nat → Memory → Bool
  | _, [] => true
  | lo, (k, b) :: rest =>
    decide (lo ≤ k) && decide (k < memSize) && decide (b ≠ initByte c k) && Memory.wfFrom c (k + 1) rest

/-- The canonical form. -/
def Memory.wf (c : Config) (m : Memory) : Bool := Memory.wfFrom c 0 m

/-- The byte at address `a` of this hardware's memory. -/
def State.byteAt (s : State) (a : Nat) : Byte := Memory.read hwParams s.mem a

/-! ### Access checks. `none` passes; otherwise the fault's kind and FAULT_ADDR. -/

/-- The first address of an access that starts at `a` and leaves memory: max(a, 0x1000) (20_memory.md R57, R58). -/
def firstOutside (a : Word) : Word := if a.toNat < memSize then 0x1000#16 else a

/-- CheckRead(a, m) for m ≥ 1 bytes (42_index_memory.md, 20_memory.md R57): exact addresses, no wrap. -/
def checkRead (a : Word) (m : Nat) : Option (FaultKind × Word) :=
  if memSize < a.toNat + m then some (.memoryOutOfBounds, firstOutside a) else none

/-- CheckWrite(a, m) for m ≥ 1 bytes (42_index_memory.md, 20_memory.md R57 and R60). -/
def checkWrite (c : Config) (a : Word) (m : Nat) : Option (FaultKind × Word) :=
  match checkRead a m with
  | some f => some f
  | none =>
    if c.guardReserved ∧ a.toNat < c.programStart.toNat then some (.reservedRegion, a) else none

/-! ### Taking a fault (60_exceptions.md R212, R215), and what leaves Halted -/

/-- The fault transition (R212): RUNSTATE <- Halted and the fault record; nothing else changes (R215). -/
def State.takeFault (kind : FaultKind) (pc op addr : Word) (s : State) : State :=
  { s with runState := .halted, faultKind := kind, faultPc := pc, faultOp := op, faultAddr := addr }

/-- A fault raised by an instruction: FAULT_PC is the instruction's address A, and PC is A + 2 by then
(30_encoding.md R101); FAULT_OP is its word (R211). DEDUCED: A is read back as PC - 2 and the word as the encoding
of the instruction (log entry 8). -/
def State.raise (kind : FaultKind) (i : Instr) (addr : Word) (s : State) : State :=
  s.takeFault kind (s.pc - 2) (encode i) addr

/-- An instruction with access checks: the fault if a check fails, otherwise its effect (20_memory.md R59: every
check comes before any write). -/
def guarded (check : Option (FaultKind × Word)) (i : Instr) (s : State) (effect : State) : Result :=
  match check with
  | some (kind, addr) => .next (s.raise kind i addr)
  | none => .next effect

/-- LOAD's reset (70_reset_and_hazards.md R242), the only way out of Halted (60_exceptions.md R216): there is no
return-from-trap instruction. KEY is not changed (92_eei_decisions.md D29); the model's own `draws` runs on (log
entry 2). -/
def State.loaded (c : Config) (rom : List Byte) (s : State) : State :=
  { State.initial c with
    key := s.key
    mem := Memory.writeBytes c [] c.programStart.toNat rom
    draws := s.draws }

end Sys2Proof.Machine
end

