-- ==== Sys2Proof/Machine/Operands.lean ====
section
/-! DEFINITION. The operand forms: register ranges, the shift operand, the key index, the font address, the
zero-extended immediates, the decimal digits (30_encoding.md R82, 41_alu.md, 42_index_memory.md R166,
44_input_timers.md R192, R197). -/

namespace Sys2Proof.Machine

/-- The 16 register numbers or key indices, lowest first. -/
def sixteen : List (Fin 16) := [0, 1, 2, 3, 4, 5, 6, 7, 8, 9, 10, 11, 12, 13, 14, 15]

/-- zext_16(nnn) (30_encoding.md R82). -/
def zextAddr (nnn : Addr12) : Word := nnn.setWidth 16

/-- zext_16 of a byte (00_scope.md R10). -/
def zextByte (b : Byte) : Word := b.setWidth 16

/-- The value 8xy6 and 8xyE shift: V[x] or V[y] by SHIFT_SRC (41_alu.md R140, R142). -/
def shiftOperand (c : Config) (vx vy : Byte) : Byte :=
  match c.shiftSrc with
  | .vx => vx
  | .vy => vy

/-- The low nibble of a byte, as a key index or a font digit. -/
def lowNibble (b : Byte) : Fin 16 := (b.extractLsb' 0 4).toFin

/-- KeyIndex(v) (44_input_timers.md R192); `none` raises KeyIndexOutOfRange. -/
def keyIndex (c : Config) (v : Byte) : Option Key :=
  if v.toNat ≤ 0x0F then some (lowNibble v)
  else match c.keyIndexMode with
    | .mask => some (lowNibble v)
    | .fault => none

/-- The address of the glyph for the low nibble of a byte, FONT_BASE + 5 * d (42_index_memory.md R162). -/
def glyphAddr (c : Config) (v : Byte) : Word := c.fontBase + BitVec.ofNat 16 (5 * (lowNibble v).val)

/-- Hundreds, tens and ones (42_index_memory.md R163). -/
def decimalDigits (v : Byte) : List Byte :=
  [BitVec.ofNat 8 (v.toNat / 100), BitVec.ofNat 8 (v.toNat / 10 % 10), BitVec.ofNat 8 (v.toNat % 10)]

/-- V[0] to V[x], the bytes Fx55 stores (42_index_memory.md R164). -/
def State.lowRegs (s : State) (x : Reg) : List Byte := s.v.toList.take (x.val + 1)

/-- V[j] <- MEM[a + j] for j in 0..x, the other registers as they are (42_index_memory.md R165). -/
def State.loadRegs (c : Config) (s : State) (a : Nat) (x : Reg) : State :=
  { s with v := Vector.ofFn fun j => if j ≤ x then Memory.read c s.mem (a + j.val) else s.v[j.val] }

/-- I after Fx55 and Fx65 (42_index_memory.md R164, R165), by LS_INCREMENT. -/
def indexAfterBulk (c : Config) (i : Word) (x : Reg) : Word :=
  match c.lsIncrement with
  | .unchanged => i
  | .xPlus1 => i + BitVec.ofNat 16 (x.val + 1)

/-- PollAny() (44_input_timers.md R197): the lowest key that is pressed and, in edge mode, was not in the
snapshot. -/
def pollAny (c : Config) (key prev : Keys) : Option Key :=
  match c.keyWaitMode with
  | .level => sixteen.find? fun k => key[k.val]
  | .edge => sixteen.find? fun k => key[k.val] && !prev[k.val]

end Sys2Proof.Machine
end

