-- ==== Sys2Proof/Machine/Flags.lean ====
section
/-! DEFINITION. Every flag the block computes: each is written into VF after the result (10_state.md R36,
41_alu.md R131). -/

namespace Sys2Proof.Machine

/-- bool01(c) (00_scope.md R10). -/
def bool01 (c : Bool) : Byte := if c then 1 else 0

/-- The carry of 8xy4: the exact sum exceeds 255 (41_alu.md R138). -/
def carryFlag (a b : Byte) : Byte := bool01 (decide (255 < a.toNat + b.toNat))

/-- The flag of 8xy5 and 8xy7 after `a - b`, by BORROW_SENSE (41_alu.md R139, R141; 90_conflicts.md C7). -/
def borrowFlag (c : Config) (a b : Byte) : Byte :=
  match c.borrowSense with
  | .underflow => bool01 (decide (a.toNat < b.toNat))
  | .notBorrow => bool01 (decide (b.toNat ≤ a.toNat))

/-- The bit 8xy6 shifts out: bit 0 (41_alu.md R140). -/
def shiftRightFlag (b : Byte) : Byte := bool01 (b.getLsbD 0)

/-- The bit 8xyE shifts out: bit 7 (41_alu.md R142). -/
def shiftLeftFlag (b : Byte) : Byte := bool01 (b.getLsbD 7)

/-- The result, then the flag (41_alu.md R131): with x = F, VF ends as the flag. -/
def State.setResultFlag (s : State) (x : Reg) (result flag : Byte) : State := (s.setV x result).setV regF flag

/-- The result of 8xy1, 8xy2 and 8xy3, then VF <- 0 when LOGIC_VF_RESET (41_alu.md R135; 90_conflicts.md C4). -/
def State.setLogic (c : Config) (s : State) (x : Reg) (result : Byte) : State :=
  if c.logicVfReset then s.setResultFlag x result 0 else s.setV x result

end Sys2Proof.Machine
end

