-- ==== Sys2Proof/Machine/Control.lean ====
section
/-! DEFINITION. Control transfer (40_control_flow.md R110 to R119): RET, JP, CALL, the register skips, JP V0.
On entry PC = A + 2; no target is checked here (R119). -/

namespace Sys2Proof.Machine

/-- A skip: PC <- PC + 2 when the condition holds (R118). -/
def State.skipIf (s : State) (cond : Bool) : State := if cond then s.advance else s

/-- RET (R110): the fault on an empty stack, otherwise SP <- SP - 1 and PC <- STACK[SP]. -/
def execRet (s : State) : Result :=
  if s.sp = 0 then .next (s.raise .stackUnderflow .ret 0)
  else if h : s.sp.toNat - 1 < 16 then .next { s with sp := s.sp - 1, pc := s.stack[s.sp.toNat - 1] }
  else .fault .stackPointerOutOfRange

/-- JP nnn (R111). -/
def execJp (nnn : Addr12) (s : State) : Result := .next { s with pc := zextAddr nnn }

/-- CALL nnn (R112): the fault on a full stack, otherwise STACK[SP] <- PC (the return address A + 2),
SP <- SP + 1 and PC <- nnn. -/
def execCall (nnn : Addr12) (s : State) : Result :=
  if s.sp.toNat = stackDepth then .next (s.raise .stackOverflow (.call nnn) 0)
  else if h : s.sp.toNat < 16 then
    .next { s with stack := s.stack.set s.sp.toNat s.pc, sp := s.sp + 1, pc := zextAddr nnn }
  else .fault .stackPointerOutOfRange

/-- SE Vx, kk (R113). -/
def execSeKk (x : Reg) (kk : Byte) (s : State) : Result := .next (s.skipIf (s.getV x = kk))

/-- SNE Vx, kk (R114). -/
def execSneKk (x : Reg) (kk : Byte) (s : State) : Result := .next (s.skipIf (s.getV x ≠ kk))

/-- SE Vx, Vy (R115). -/
def execSeVy (x y : Reg) (s : State) : Result := .next (s.skipIf (s.getV x = s.getV y))

/-- SNE Vx, Vy (R116). -/
def execSneVy (x y : Reg) (s : State) : Result := .next (s.skipIf (s.getV x ≠ s.getV y))

/-- JP V0, nnn (R117): the exact sum, at most 0x10FE, with no mask. -/
def execJpV0 (nnn : Addr12) (s : State) : Result := .next { s with pc := zextAddr nnn + zextByte (s.getV 0) }

end Sys2Proof.Machine
end

