-- ==== Sys2Proof/Machine/InputTimers.lean ====
section
/-! DEFINITION. The key-latch and timer instructions and the key wait (44_input_timers.md R190 to R200). The forms
ending in `With` take the parameters of 00_scope.md R6 as an argument. -/

namespace Sys2Proof.Machine

/-- SKP Vx (R190): KeyIndexOutOfRange only with KEY_INDEX_MODE = fault. -/
def skpWith (c : Config) (x : Reg) (s : State) : Result :=
  match keyIndex c (s.getV x) with
  | some k => .next (s.skipIf (s.keyDown k))
  | none => .next (s.raise .keyIndexOutOfRange (.skp x) 0)

/-- SKP Vx (R190) on this hardware. -/
def execSkp (x : Reg) (s : State) : Result := skpWith hwParams x s

/-- SKNP Vx (R191). -/
def sknpWith (c : Config) (x : Reg) (s : State) : Result :=
  match keyIndex c (s.getV x) with
  | some k => .next (s.skipIf (!s.keyDown k))
  | none => .next (s.raise .keyIndexOutOfRange (.sknp x) 0)

/-- SKNP Vx (R191) on this hardware. -/
def execSknp (x : Reg) (s : State) : Result := sknpWith hwParams x s

/-- LD Vx, DT (R193). -/
def execLdVxDt (x : Reg) (s : State) : Result := .next (s.setV x s.dt)

/-- LD DT, Vx (R194). -/
def execLdDtVx (x : Reg) (s : State) : Result := .next { s with dt := s.getV x }

/-- LD ST, Vx (R195). -/
def execLdStVx (x : Reg) (s : State) : Result := .next { s with st := s.getV x }

/-- A key index as the byte stored in a V register. -/
def keyByte (k : Key) : Byte := BitVec.ofNat 8 k.val

/-- KEY_PREV <- KEY when KEY_WAIT_MODE = edge (R196, R199). -/
def State.snapshotKeys (c : Config) (s : State) : State :=
  match c.keyWaitMode with
  | .level => s
  | .edge => { s with keyPrev := s.key }

/-- LD Vx, K (R196): the key at once, or the key wait begins. PC stays A + 2 either way. -/
def ldVxKWith (c : Config) (x : Reg) (s : State) : Result :=
  let s1 := s.snapshotKeys c
  match pollAny c s1.key s1.keyPrev with
  | some k => .next (s1.setV x (keyByte k))
  | none => .next { s1 with waitX := x, runState := .awaitingKey }

/-- LD Vx, K (R196) on this hardware. -/
def execLdVxK (x : Reg) (s : State) : Result := ldVxKWith hwParams x s

/-- WaitStep (R198): STEP in AwaitingKey. It fetches nothing. -/
def waitStep (c : Config) (s : State) : State :=
  match pollAny c s.key s.keyPrev with
  | some k => { s.setV s.waitX (keyByte k) with runState := .running }
  | none => s.snapshotKeys c

end Sys2Proof.Machine
end

