-- ==== Sys2Proof/Machine/Cycle.lean ====
section
/-! DEFINITION. The step cycle (30_encoding.md R100 to R105): fetch, advance, decode, and what STEP does in each
run state. The instructions are an argument, so that the cycle is written once. -/

namespace Sys2Proof.Machine

/-- The fetch checks in the order of 60_exceptions.md R214: bounds (20_memory.md R58), alignment (R55), reserved
region (R60). `none` passes; otherwise the fault's kind and FAULT_ADDR. -/
def fetchCheck (c : Config) (pc : Word) : Option (FaultKind × Word) :=
  if 0xFFF < pc.toNat + 1 then some (.memoryOutOfBounds, firstOutside pc)
  else if c.alignCheck ∧ pc.getLsbD 0 then some (.misalignedPc, 0)
  else if c.guardReserved ∧ pc.toNat < c.programStart.toNat then some (.reservedRegion, pc)
  else none

/-- MemRead16(a): big-endian (00_scope.md R11, 20_memory.md R53). -/
def fetchWord (c : Config) (m : Memory) (a : Nat) : Word :=
  wordOfBytes (Memory.read c m a) (Memory.read c m (a + 1))

/-- FetchDecodeExecute (R101, R102). A fetch fault leaves PC = A; an unknown opcode leaves PC = A + 2. -/
def fetchDecodeExecute (c : Config) (run : Instr → State → Result) (s : State) : Result :=
  match fetchCheck c s.pc with
  | some (kind, addr) => .next (s.takeFault kind s.pc 0 addr)
  | none =>
    match decodeWord (fetchWord c s.mem s.pc.toNat) with
    | some i => run i s.advance
    | none => .next (s.advance.takeFault .unknownOpcode s.pc (fetchWord c s.mem s.pc.toNat) 0)

/-- STEP (R100): nothing in Halted (R103), one wait check in AwaitingKey (R104), one instruction in Running. -/
def stepBy (c : Config) (run : Instr → State → Result) (s : State) : Result :=
  match s.runState with
  | .halted => .next s
  | .awaitingKey => .next (waitStep c s)
  | .running => fetchDecodeExecute c run s

/-- The state with a word placed where the next STEP fetches it. The machine is set Running, and a PC that no
fetch accepts is moved to PROGRAM_START; both hold already right after reset (log entry 10). -/
def State.placeWord (s : State) (w : Word) : State :=
  let pc := if (fetchCheck hwParams s.pc).isNone then s.pc else hwParams.programStart
  { s with
    runState := .running
    pc := pc
    mem := Memory.writeBytes hwParams s.mem pc.toNat (bytesOfWord w) }

end Sys2Proof.Machine
end

