-- ==== Sys2Proof/Machine/Alu.lean ====
section
/-! DEFINITION. The ALU instructions (41_alu.md R130 to R143). The forms ending in `With` take the parameters of
00_scope.md R6 as an argument; the meanings `exec…` are theirs at this hardware's values. -/

namespace Sys2Proof.Machine

/-- LD Vx, kk (R132). -/
def execLdKk (x : Reg) (kk : Byte) (s : State) : Result := .next (s.setV x kk)

/-- ADD Vx, kk (R133): modulo 256, no flag. -/
def execAddKk (x : Reg) (kk : Byte) (s : State) : Result := .next (s.setV x (s.getV x + kk))

/-- LD Vx, Vy (R134). -/
def execLdVy (x y : Reg) (s : State) : Result := .next (s.setV x (s.getV y))

/-- OR Vx, Vy (R135). -/
def orVyWith (c : Config) (x y : Reg) (s : State) : Result := .next (s.setLogic c x (s.getV x ||| s.getV y))

/-- OR Vx, Vy (R135) on this hardware. -/
def execOrVy (x y : Reg) (s : State) : Result := orVyWith hwParams x y s

/-- AND Vx, Vy (R136). -/
def andVyWith (c : Config) (x y : Reg) (s : State) : Result := .next (s.setLogic c x (s.getV x &&& s.getV y))

/-- AND Vx, Vy (R136) on this hardware. -/
def execAndVy (x y : Reg) (s : State) : Result := andVyWith hwParams x y s

/-- XOR Vx, Vy (R137). -/
def xorVyWith (c : Config) (x y : Reg) (s : State) : Result := .next (s.setLogic c x (s.getV x ^^^ s.getV y))

/-- XOR Vx, Vy (R137) on this hardware. -/
def execXorVy (x y : Reg) (s : State) : Result := xorVyWith hwParams x y s

/-- ADD Vx, Vy (R138): VF is the carry. -/
def execAddVy (x y : Reg) (s : State) : Result :=
  .next (s.setResultFlag x (s.getV x + s.getV y) (carryFlag (s.getV x) (s.getV y)))

/-- SUB Vx, Vy (R139): V[x] - V[y], VF by BORROW_SENSE. -/
def subVyWith (c : Config) (x y : Reg) (s : State) : Result :=
  .next (s.setResultFlag x (s.getV x - s.getV y) (borrowFlag c (s.getV x) (s.getV y)))

/-- SUB Vx, Vy (R139) on this hardware. -/
def execSubVy (x y : Reg) (s : State) : Result := subVyWith hwParams x y s

/-- SHR Vx, Vy (R140): VF is bit 0 of the operand. -/
def shrVyWith (c : Config) (x y : Reg) (s : State) : Result :=
  let b := shiftOperand c (s.getV x) (s.getV y)
  .next (s.setResultFlag x (b >>> 1) (shiftRightFlag b))

/-- SHR Vx, Vy (R140) on this hardware. -/
def execShrVy (x y : Reg) (s : State) : Result := shrVyWith hwParams x y s

/-- SUBN Vx, Vy (R141): V[y] - V[x], VF by BORROW_SENSE. -/
def subnVyWith (c : Config) (x y : Reg) (s : State) : Result :=
  .next (s.setResultFlag x (s.getV y - s.getV x) (borrowFlag c (s.getV y) (s.getV x)))

/-- SUBN Vx, Vy (R141) on this hardware. -/
def execSubnVy (x y : Reg) (s : State) : Result := subnVyWith hwParams x y s

/-- SHL Vx, Vy (R142): VF is bit 7 of the operand. -/
def shlVyWith (c : Config) (x y : Reg) (s : State) : Result :=
  let b := shiftOperand c (s.getV x) (s.getV y)
  .next (s.setResultFlag x (b <<< 1) (shiftLeftFlag b))

/-- SHL Vx, Vy (R142) on this hardware. -/
def execShlVy (x y : Reg) (s : State) : Result := shlVyWith hwParams x y s

/-- RND Vx, kk (R143) with the draw `r`. -/
def rndOfDraw (r : Byte) (x : Reg) (kk : Byte) (s : State) : State :=
  { s.setV x (r &&& kk) with draws := s.draws + 1 }

/-- RND Vx, kk (R143): the draw is the free value `Config.randByte` at the next draw number (log entry 2). -/
def execRnd (x : Reg) (kk : Byte) (s : State) : Result := .next (rndOfDraw (Config.randByte s.draws) x kk s)

end Sys2Proof.Machine
end

