-- ==== Sys2Proof/Machine/Graphics.lean ====
section
/-! DEFINITION. The display: CLS, and DRW with its XOR blit and collision detector (43_display.md R180 to R184). -/

namespace Sys2Proof.Machine

/-- DISP[py][px] (10_state.md R34). -/
def Display.pixel (d : Display) (py : Fin 32) (px : Fin 64) : Bool := d[py.val][px.val]

/-- The display with one pixel XORed with 1. -/
def Display.flip (d : Display) (py : Fin 32) (px : Fin 64) : Display :=
  d.set py.val (d[py.val].set px.val (!d.pixel py px))

/-- All pixels 0. -/
def Display.clear : Display := Vector.replicate 32 (Vector.replicate 64 false)

/-- One visited pixel (R182, R184): the collision flag is set when the pixel was 1, then the pixel is flipped. -/
def blitPixel (acc : Display × Bool) (p : Fin 32 × Fin 64) : Display × Bool :=
  (acc.1.flip p.1 p.2, acc.2 || acc.1.pixel p.1 p.2)

/-- The pixels row `r` of a sprite visits: bit 7 is the leftmost (R183), coordinates wrap (R180). -/
def rowPixels (ox oy : Byte) (r : Nat) (row : Byte) : List (Fin 32 × Fin 64) :=
  ((List.range 8).filter fun j => row.getLsbD (7 - j)).map fun j =>
    (Fin.ofNat 32 (oy.toNat + r), Fin.ofNat 64 (ox.toNat + j))

/-- The pixels a sprite visits, row after row from row `r` on, in the order of R182's loops. -/
def spritePixels (ox oy : Byte) : Nat → List Byte → List (Fin 32 × Fin 64)
  | _, [] => []
  | r, row :: rows => rowPixels ox oy r row ++ spritePixels ox oy (r + 1) rows

/-- The XOR blit (R182): the new display, and whether a pixel went from 1 to 0. -/
def blit (d : Display) (ox oy : Byte) (rows : List Byte) : Display × Bool :=
  (spritePixels ox oy 0 rows).foldl blitPixel (d, false)

/-- The check of DRW: none for n = 0 (R182, 20_memory.md R57). -/
def checkSprite (i : Word) (n : Nibble) : Option (FaultKind × Word) :=
  if n = 0 then none else checkRead i n.toNat

/-- CLS (R181). -/
def execCls (s : State) : Result := .next { s with disp := Display.clear }

/-- DRW Vx, Vy, n (R182): VF is the collision flag, written after the pixels. -/
def drwWith (c : Config) (x y : Reg) (n : Nibble) (s : State) : Result :=
  let drawn := blit s.disp (s.getV x) (s.getV y) (Memory.readBytes c s.mem s.i.toNat n.toNat)
  guarded (checkSprite s.i n) (.drw x y n) s
    (({ s with disp := drawn.1 } : State).setV regF (bool01 drawn.2))

/-- DRW Vx, Vy, n (R182) on this hardware. -/
def execDrw (x y : Reg) (n : Nibble) (s : State) : Result := drwWith hwParams x y n s

end Sys2Proof.Machine
end

