-- ==== Sys2Proof/Machine/IndexMemory.lean ====
section
/-! DEFINITION. The index register and the memory instructions (42_index_memory.md R160 to R166). The forms ending
in `With` take the parameters of 00_scope.md R6 as an argument. -/

namespace Sys2Proof.Machine

/-- LD I, nnn (R160). -/
def execLdI (nnn : Addr12) (s : State) : Result := .next { s with i := zextAddr nnn }

/-- ADD I, Vx (R161): modulo 2^16, no flag. -/
def execAddIVx (x : Reg) (s : State) : Result := .next { s with i := s.i + zextByte (s.getV x) }

/-- LD F, Vx (R162). -/
def ldFVxWith (c : Config) (x : Reg) (s : State) : Result := .next { s with i := glyphAddr c (s.getV x) }

/-- LD F, Vx (R162) on this hardware. -/
def execLdFVx (x : Reg) (s : State) : Result := ldFVxWith hwParams x s

/-- LD B, Vx (R163): three bytes at I, I + 1 and I + 2 (90_conflicts.md C3). -/
def ldBVxWith (c : Config) (x : Reg) (s : State) : Result :=
  guarded (checkWrite c s.i 3) (.ldBVx x) s
    { s with mem := Memory.writeBytes c s.mem s.i.toNat (decimalDigits (s.getV x)) }

/-- LD B, Vx (R163) on this hardware. -/
def execLdBVx (x : Reg) (s : State) : Result := ldBVxWith hwParams x s

/-- LD [I], Vx (R164): store V0 to Vx. -/
def ldMemVxWith (c : Config) (x : Reg) (s : State) : Result :=
  guarded (checkWrite c s.i (x.val + 1)) (.ldMemVx x) s
    { s with
      mem := Memory.writeBytes c s.mem s.i.toNat (s.lowRegs x)
      i := indexAfterBulk c s.i x }

/-- LD [I], Vx (R164) on this hardware. -/
def execLdMemVx (x : Reg) (s : State) : Result := ldMemVxWith hwParams x s

/-- LD Vx, [I] (R165): load V0 to Vx. -/
def ldVxMemWith (c : Config) (x : Reg) (s : State) : Result :=
  guarded (checkRead s.i (x.val + 1)) (.ldVxMem x) s
    { s.loadRegs c s.i.toNat x with i := indexAfterBulk c s.i x }

/-- LD Vx, [I] (R165) on this hardware. -/
def execLdVxMem (x : Reg) (s : State) : Result := ldVxMemWith hwParams x s

end Sys2Proof.Machine
end

