-- ==== Sys2Proof/Machine/Step.lean ====
section
/-! DEFINITION. The machine's step is the transaction STEP (30_encoding.md R100) at this hardware's parameters. -/

namespace Sys2Proof.Machine

def step (s : State) : Host.Outcome State Fault Refusal := stepBy hwParams exec s

/-- The instruction whose bits are `w` (as spec/opcode_table.json numbers them), stored where `step` fetches. -/
def State.withFetchWord (s : State) (nbits w : Nat) : State := s.placeWord (tableWord nbits w)

end Sys2Proof.Machine
end

