-- ==== Sys2Proof/Machine/Variants.lean ====
section
/-! DEFINITION. The block at ANY choice of the parameters of 00_scope.md R6 (R7): a claim about `execWith c` or
`stepWith c` holds for that choice. The machine itself is `exec` and `step`, at `hwParams`. -/

namespace Sys2Proof.Machine

/-- The instructions with the parameters as an argument. -/
def execWith (c : Config) (i : Instr) (s : State) : Result :=
  match i with
  | .cls => execCls s
  | .ret => execRet s
  | .jp nnn => execJp nnn s
  | .call nnn => execCall nnn s
  | .seKk x kk => execSeKk x kk s
  | .sneKk x kk => execSneKk x kk s
  | .seVy x y => execSeVy x y s
  | .ldKk x kk => execLdKk x kk s
  | .addKk x kk => execAddKk x kk s
  | .ldVy x y => execLdVy x y s
  | .orVy x y => orVyWith c x y s
  | .andVy x y => andVyWith c x y s
  | .xorVy x y => xorVyWith c x y s
  | .addVy x y => execAddVy x y s
  | .subVy x y => subVyWith c x y s
  | .shrVy x y => shrVyWith c x y s
  | .subnVy x y => subnVyWith c x y s
  | .shlVy x y => shlVyWith c x y s
  | .sneVy x y => execSneVy x y s
  | .ldI nnn => execLdI nnn s
  | .jpV0 nnn => execJpV0 nnn s
  | .rnd x kk => execRnd x kk s
  | .drw x y n => drwWith c x y n s
  | .skp x => skpWith c x s
  | .sknp x => sknpWith c x s
  | .ldVxDt x => execLdVxDt x s
  | .ldVxK x => ldVxKWith c x s
  | .ldDtVx x => execLdDtVx x s
  | .ldStVx x => execLdStVx x s
  | .addIVx x => execAddIVx x s
  | .ldFVx x => ldFVxWith c x s
  | .ldBVx x => ldBVxWith c x s
  | .ldMemVx x => ldMemVxWith c x s
  | .ldVxMem x => ldVxMemWith c x s

/-- STEP with the parameters as an argument. -/
def stepWith (c : Config) (s : State) : Result := stepBy c (execWith c) s

end Sys2Proof.Machine
end

