-- ==== Sys2Proof/Machine/Transactions.lean ====
section
/-! DEFINITION. The host's side of the block (60_exceptions.md R226): the transactions CONSTRUCT, LOAD, TICK and
SET_KEY beside STEP, the read-only outputs, and sequences of transactions in any order (R231). -/

namespace Sys2Proof.Machine

/-! ### Transactions -/

/-- CONSTRUCT (70_reset_and_hazards.md R240). The model's own `draws` runs on, so that no draw is repeated (log
entry 2). -/
def construct (c : Config) (s : State) : State := { State.initial c with draws := s.draws }

/-- The verdict of LOAD (70_reset_and_hazards.md R241). -/
inductive LoadVerdict where
  | ok
  | romTooLarge
deriving DecidableEq, Repr

/-- LOAD(rom): RomTooLarge and no change, or the reset and the copy (70_reset_and_hazards.md R241, R242). -/
def load (c : Config) (rom : List Byte) (s : State) : State × LoadVerdict :=
  if c.romFits rom then (s.loaded c rom, .ok) else (s, .romTooLarge)

/-- An 8-bit counter decremented, clamped at 0 (60_exceptions.md R221). -/
def countDown (b : Byte) : Byte := if b = 0 then 0 else b - 1

/-- TICK (60_exceptions.md R221), in every RUNSTATE. -/
def tick (s : State) : State := { s with dt := countDown s.dt, st := countDown s.st }

/-- SET_KEY(k, p) (60_exceptions.md R224), in every RUNSTATE. -/
def setKey (k : Key) (p : Bool) (s : State) : State := { s with key := s.key.set k.val p }

/-! ### Outputs -/

/-- READ_PIXEL(px, py) (60_exceptions.md R225). -/
def State.readPixel (s : State) (px : Fin 64) (py : Fin 32) : Bool := s.disp.pixel py px

/-- is_pressed(k) (60_exceptions.md R225). -/
def State.isPressed (s : State) (k : Key) : Bool := s.keyDown k

/-- sound_on = (ST ≠ 0) (60_exceptions.md R223). -/
def State.soundOn (s : State) : Bool := decide (s.st ≠ 0)

/-- The code of RUNSTATE (10_state.md R40). -/
def runStateCode : RunState → Nat
  | .running => 0
  | .awaitingKey => 1
  | .halted => 2

/-- The code of FAULT_KIND, 3 bits (60_exceptions.md R211). -/
def faultCode : FaultKind → BitVec 3
  | .none => 0
  | .unknownOpcode => 1
  | .stackUnderflow => 2
  | .stackOverflow => 3
  | .memoryOutOfBounds => 4
  | .misalignedPc => 5
  | .reservedRegion => 6
  | .keyIndexOutOfRange => 7

/-- The status output: RUNSTATE and the fault record (60_exceptions.md R226), and the wait register and the key
snapshot, which 10_state.md R37 has the host read through it too (log entry 20). -/
structure Status where
  runState : Nat
  waitX : Reg
  keyPrev : Keys
  faultKind : BitVec 3
  faultPc : Word
  faultOp : Word
  faultAddr : Word
deriving DecidableEq, Repr

/-- The status output of a state. -/
def State.status (s : State) : Status :=
  { runState := runStateCode s.runState, waitX := s.waitX, keyPrev := s.keyPrev
    faultKind := faultCode s.faultKind, faultPc := s.faultPc, faultOp := s.faultOp, faultAddr := s.faultAddr }

/-- What STEP returns (30_encoding.md R105). -/
inductive StepResult where
  | ok
  | waiting
  | fault (kind : FaultKind)
deriving DecidableEq, Repr

/-- What STEP returns, read from the state after it (30_encoding.md R103, R105; log entry 4). -/
def State.stepResult (s : State) : StepResult :=
  match s.runState with
  | .running => .ok
  | .awaitingKey => .waiting
  | .halted => .fault s.faultKind

/-! ### Sequences -/

/-- The transactions of 00_scope.md R2. -/
inductive Transaction where
  | construct
  | load (rom : List Byte)
  | step
  | tick
  | setKey (k : Key) (p : Bool)
deriving DecidableEq, Repr

/-- One transaction, with the parameters as an argument. -/
def transactWith (c : Config) (t : Transaction) (s : State) : Result :=
  match t with
  | .construct => .next (construct c s)
  | .load rom => .next (load c rom s).1
  | .step => stepWith c s
  | .tick => .next (tick s)
  | .setKey k p => .next (setKey k p s)

/-- One transaction on this hardware. -/
def transact (t : Transaction) (s : State) : Result :=
  match t with
  | .construct => .next (construct hwParams s)
  | .load rom => .next (load hwParams rom s).1
  | .step => step s
  | .tick => .next (tick s)
  | .setKey k p => .next (setKey k p s)

/-- The host's transactions one after another, in the order it issues them (60_exceptions.md R231). -/
def runTransactions : List Transaction → State → Result
  | [], s => .next s
  | t :: ts, s =>
    match transact t s with
    | .next s' => runTransactions ts s'
    | .fault r => .fault r
    | .refused r => .refused r

end Sys2Proof.Machine
end

