-- ==== Sys2Proof/Safety.lean ====
section
/-! DEFINITION. The terms claims are stated in: what a step leaves unchanged, when a fault was taken, the
invariant of the reachable states, and the pixels of a sprite. -/

namespace Sys2Proof.Machine

/-- The pieces of the state (10_state.md), as a frame names them. -/
inductive Part where
  | regs
  | index
  | pc
  | sp
  | stack
  | dt
  | st
  | disp
  | key
  | runState
  | waitX
  | keyPrev
  | faultRecord
  | mem
  | draws
deriving DecidableEq, Repr

/-- The frame: every piece that `may` does not name is the same in `t` as in `s`. Memory is compared byte by byte,
through the model's read of one byte. -/
def Unchanged (may : List Part) (s t : State) : Prop :=
  (.regs ∉ may → ∀ r, t.getV r = s.getV r) ∧
  (.index ∉ may → t.i = s.i) ∧
  (.pc ∉ may → t.pc = s.pc) ∧
  (.sp ∉ may → t.sp = s.sp) ∧
  (.stack ∉ may → t.stack = s.stack) ∧
  (.dt ∉ may → t.dt = s.dt) ∧
  (.st ∉ may → t.st = s.st) ∧
  (.disp ∉ may → t.disp = s.disp) ∧
  (.key ∉ may → t.key = s.key) ∧
  (.runState ∉ may → t.runState = s.runState) ∧
  (.waitX ∉ may → t.waitX = s.waitX) ∧
  (.keyPrev ∉ may → t.keyPrev = s.keyPrev) ∧
  (.faultRecord ∉ may →
    t.faultKind = s.faultKind ∧ t.faultPc = s.faultPc ∧ t.faultOp = s.faultOp ∧ t.faultAddr = s.faultAddr) ∧
  (.mem ∉ may → ∀ a, t.byteAt a = s.byteAt a) ∧
  (.draws ∉ may → t.draws = s.draws)

/-- Every V register but those of the list is the same in `t` as in `s`. -/
def RegsUnchangedBut (but : List Reg) (s t : State) : Prop := ∀ r, r ∉ but → t.getV r = s.getV r

/-- The fault transition (60_exceptions.md R212) led from `s` to `t`: RUNSTATE and the record are set, and nothing
else changed (R215). -/
def FaultTaken (kind : FaultKind) (pc op addr : Word) (s t : State) : Prop :=
  t.runState = .halted ∧ t.faultKind = kind ∧ t.faultPc = pc ∧ t.faultOp = op ∧ t.faultAddr = addr ∧
  Unchanged [.runState, .faultRecord] s t

/-- The invariant of the reachable states, at any parameters: memory is canonical; with GUARD_RESERVED the
reserved area reads as at reset (20_memory.md R52); SP counts at most STACK_DEPTH entries (10_state.md R25); PC is
at most 0x10FE and every stack entry at most 0x1000 (R31); a fault is recorded exactly in Halted (R39). -/
structure State.Inv (c : Config) (s : State) : Prop where
  memCanonical : Memory.wf c s.mem = true
  reservedAsReset : c.guardReserved = true → ∀ a, a < c.programStart.toNat → Memory.read c s.mem a = initByte c a
  spInRange : s.sp.toNat ≤ stackDepth
  pcInRange : s.pc.toNat ≤ 0x10FE
  stackInRange : ∀ j : Fin 16, (s.stack[j.val]).toNat ≤ 0x1000
  faultIffHalted : s.faultKind ≠ .none ↔ s.runState = .halted

/-- A fetch at this PC passes the three fetch checks of 30_encoding.md R101 on this hardware. -/
def Fetchable (pc : Word) : Prop := 0x200 ≤ pc.toNat ∧ pc.toNat ≤ 0xFFE ∧ pc.toNat % 2 = 0

/-- The opcode at PC: MEM[PC] * 256 + MEM[PC+1] (20_memory.md R53). -/
def State.opcodeAtPc (s : State) : Word :=
  BitVec.ofNat 16 ((s.byteAt s.pc.toNat).toNat * 256 + (s.byteAt (s.pc.toNat + 1)).toNat)

/-- The instruction the next STEP of a Running state executes is `i`. -/
def State.Executes (s : State) (i : Instr) : Prop :=
  s.runState = .running ∧ Fetchable s.pc ∧ decodeWord s.opcodeAtPc = some i

/-- A key that qualifies for the key wait (44_input_timers.md R197): pressed, and in edge mode not in the
snapshot. -/
def Qualifies (c : Config) (key prev : Keys) (k : Key) : Prop :=
  key[k.val] = true ∧ (c.keyWaitMode = .edge → prev[k.val] = false)

/-- The sprite bit that a sprite of `rows`, drawn at (ox, oy), has at a pixel: row r of the sprite is r rows below
the origin and bit 7 - j is j columns right of it, both wrapping (43_display.md R180, R183). -/
def SpriteBit (ox oy : Byte) (rows : List Byte) (py : Fin 32) (px : Fin 64) : Prop :=
  ∃ r j : Nat, r < rows.length ∧ j < 8 ∧ (rows.getD r 0).getLsbD (7 - j) = true ∧
    py.val = (oy.toNat + r) % 32 ∧ px.val = (ox.toNat + j) % 64

end Sys2Proof.Machine
end

