-- ==== Sys2Proof/Certificates/Slice0/Obligations.lean ====
section
/-! DEFINITION. The statements for the provers. Each is read from spec/; its docstring names the rule. On entry to
an instruction PC is A + 2, so A is written `s.pc - 2` in a statement about `exec`. -/

open Sys2Proof Sys2Proof.Machine

/-! ### Encoding and decoding -/

/-- Words written out from 30_encoding.md R90, one or more for each of the 16 families (op[15:12], R81), decode to
their instruction. -/
def Obligations.SpecWordsDecode : Prop :=
  decode [0x00, 0xE0] = .ok (.cls, []) ∧
  decode [0x00, 0xEE] = .ok (.ret, []) ∧
  decode [0x13, 0x42] = .ok (.jp 0x342, []) ∧
  decode [0x2F, 0xFE] = .ok (.call 0xFFE, []) ∧
  decode [0x3A, 0x2B] = .ok (.seKk 10 0x2B, []) ∧
  decode [0x4B, 0x3C] = .ok (.sneKk 11 0x3C, []) ∧
  decode [0x51, 0x20] = .ok (.seVy 1 2, []) ∧
  decode [0x6A, 0x2B] = .ok (.ldKk 10 0x2B, []) ∧
  decode [0x7F, 0xF0] = .ok (.addKk 15 0xF0, []) ∧
  decode [0x8B, 0xC5] = .ok (.subVy 11 12, []) ∧
  decode [0x84, 0x4E] = .ok (.shlVy 4 4, []) ∧
  decode [0x9E, 0x20] = .ok (.sneVy 14 2, []) ∧
  decode [0xA2, 0xF0] = .ok (.ldI 0x2F0, []) ∧
  decode [0xB3, 0x00] = .ok (.jpV0 0x300, []) ∧
  decode [0xC3, 0x0F] = .ok (.rnd 3 0x0F, []) ∧
  decode [0xD1, 0x25] = .ok (.drw 1 2 5, []) ∧
  decode [0xE1, 0xA1] = .ok (.sknp 1, []) ∧
  decode [0xFA, 0x33] = .ok (.ldBVx 10, []) ∧
  decode [0xF2, 0x65] = .ok (.ldVxMem 2, []) ∧
  decode [0x51, 0x21] = .error (.unknownOpcode 0x5121) ∧
  decode [0x01] = .error .truncated

/-- Decoding the encoding of any instruction gives it back, from its word and from its bytes in front of any
others. -/
def Obligations.EncodeThenDecode : Prop :=
  ∀ (i : Instr) (rest : List Byte),
    decodeWord (encode i) = some i ∧ decode (bytesOfWord (encode i) ++ rest) = .ok (i, rest)

/-- A word that decodes is the encoding of what it decodes to: no bit of a legal word is dropped. -/
def Obligations.DecodeThenEncode : Prop :=
  ∀ (op : Word) (i : Instr), decodeWord op = some i → encode i = op

/-- 30_encoding.md R91: the illegal words are those that match no row, they are the words listed there, and the
STEP that fetches one halts with UnknownOpcode, PC already advanced. -/
def Obligations.IllegalWordsHalt : Prop :=
  (∀ op : Word, decodeWord op = none ↔ ∀ row ∈ opcodeTable, op &&& row.mask ≠ row.value) ∧
  (∀ op : Word, decodeWord op = none ↔
    (op.toNat / 4096 = 0x0 ∧ op ≠ 0x00E0 ∧ op ≠ 0x00EE) ∨
    ((op.toNat / 4096 = 0x5 ∨ op.toNat / 4096 = 0x9) ∧ op.toNat % 16 ≠ 0) ∨
    (op.toNat / 4096 = 0x8 ∧ op.toNat % 16 ∈ [0x8, 0x9, 0xA, 0xB, 0xC, 0xD, 0xF]) ∨
    (op.toNat / 4096 = 0xE ∧ op.toNat % 256 ∉ [0x9E, 0xA1]) ∨
    (op.toNat / 4096 = 0xF ∧ op.toNat % 256 ∉ [0x07, 0x0A, 0x15, 0x18, 0x1E, 0x29, 0x33, 0x55, 0x65])) ∧
  (∀ s : State, s.runState = .running → Fetchable s.pc → decodeWord s.opcodeAtPc = none →
    ∃ t, step s = .next t ∧ FaultTaken .unknownOpcode s.pc s.opcodeAtPc 0 { s with pc := s.pc + 2 } t)

/-- 30_encoding.md R90: no word matches two rows of the opcode map, and the map has 34 rows. -/
def Obligations.OpcodeRowsNeverOverlap : Prop :=
  opcodeTable.length = 34 ∧
  ∀ (op : Word) (j k : Fin 34) (rj rk : OpcodeRow), opcodeTable[j.val]? = some rj → opcodeTable[k.val]? = some rk →
    op &&& rj.mask = rj.value → op &&& rk.mask = rk.value → j = k

/-! ### The step cycle -/

/-- 30_encoding.md R102: in Running with a fetchable PC, STEP executes the one instruction that the opcode at PC
decodes to, with PC = A + 2; if the opcode decodes to nothing, it raises UnknownOpcode and PC stays A + 2. -/
def Obligations.StepExecutesDecodedInstruction : Prop :=
  ∀ s : State, s.runState = .running → Fetchable s.pc →
    (∀ i, decodeWord s.opcodeAtPc = some i → step s = exec i { s with pc := s.pc + 2 }) ∧
    (decodeWord s.opcodeAtPc = none →
      step s = .next { s with
        pc := s.pc + 2, runState := .halted, faultKind := .unknownOpcode, faultPc := s.pc
        faultOp := s.opcodeAtPc, faultAddr := 0 })

/-- 30_encoding.md R101, at any parameters: the three fetch checks in their order, each leaving PC = A with its
fault record; past them the big-endian fetch, the advance, and the decoded instruction. -/
def Obligations.FetchChecksInOrder : Prop :=
  ∀ (c : Config) (s : State), s.runState = .running →
    stepWith c s =
      if 0xFFF < s.pc.toNat + 1 then
        .next { s with
          runState := .halted, faultKind := .memoryOutOfBounds, faultPc := s.pc, faultOp := 0
          faultAddr := if 0x1000 ≤ s.pc.toNat then s.pc else 0x1000 }
      else if c.alignCheck = true ∧ s.pc.toNat % 2 = 1 then
        .next { s with
          runState := .halted, faultKind := .misalignedPc, faultPc := s.pc, faultOp := 0, faultAddr := 0 }
      else if c.guardReserved = true ∧ s.pc.toNat < c.programStart.toNat then
        .next { s with
          runState := .halted, faultKind := .reservedRegion, faultPc := s.pc, faultOp := 0, faultAddr := s.pc }
      else
        let op : Word := BitVec.ofNat 16
          ((Memory.read c s.mem s.pc.toNat).toNat * 256 + (Memory.read c s.mem (s.pc.toNat + 1)).toNat)
        match decodeWord op with
        | some i => execWith c i { s with pc := s.pc + 2 }
        | none =>
          .next { s with
            pc := s.pc + 2, runState := .halted, faultKind := .unknownOpcode, faultPc := s.pc, faultOp := op
            faultAddr := 0 }

/-- 60_exceptions.md R216 with 30_encoding.md R103: in Halted a STEP changes nothing and reports the same fault, no
sequence of STEP, TICK and SET_KEY leaves Halted or touches the fault record, while TICK still counts down and SET_KEY still writes the latch; a LOAD that fits leaves Halted and clears
the record. -/
def Obligations.HaltedIsSticky : Prop :=
  ∀ s : State, s.runState = .halted →
    (∀ ts : List Transaction, (∀ t ∈ ts, t = .step ∨ t = .tick ∨ ∃ k p, t = .setKey k p) →
      ∃ u, runTransactions ts s = .next u ∧ Unchanged [.dt, .st, .key] s u) ∧
    step s = .next s ∧ s.stepResult = .fault s.faultKind ∧
    (∃ u, transact .tick s = .next u ∧ u.dt.toNat = s.dt.toNat - 1 ∧ u.st.toNat = s.st.toNat - 1 ∧
      Unchanged [.dt, .st] s u) ∧
    (∀ k p, ∃ u, transact (.setKey k p) s = .next u ∧ u.keyDown k = p ∧ Unchanged [.key] s u) ∧
    (∀ rom : List Byte, rom.length ≤ 3584 →
      ∃ u, transact (.load rom) s = .next u ∧ u.runState = .running ∧ u.faultKind = .none ∧ u.faultPc = 0 ∧
        u.faultOp = 0 ∧ u.faultAddr = 0)

/-- 44_input_timers.md R198 with the selection of R197, at any parameters: a WaitStep that finds a qualifying key
stores the lowest one in V[WAIT_X] and resumes; one that finds none changes nothing but, in edge mode, the
snapshot. -/
def Obligations.WaitStepChecksTheLatch : Prop :=
  ∀ (c : Config) (s : State), s.runState = .awaitingKey →
    (∀ k, Qualifies c s.key s.keyPrev k → (∀ j, j < k → ¬Qualifies c s.key s.keyPrev j) →
      stepWith c s = .next { s with v := s.v.set s.waitX.val (BitVec.ofNat 8 k.val), runState := .running }) ∧
    ((∀ k, ¬Qualifies c s.key s.keyPrev k) →
      stepWith c s = .next { s with keyPrev := if c.keyWaitMode = .edge then s.key else s.keyPrev })

/-- What STEP returns is read from the run state after it (30_encoding.md, the step cycle). That Ok is Running after
the STEP is the model's reading (log entry 4). -/
def Obligations.StepResultReadsRunState : Prop :=
  ∀ s : State,
    (s.stepResult = .ok ↔ s.runState = .running) ∧
    (s.stepResult = .waiting ↔ s.runState = .awaitingKey) ∧
    (∀ k, s.stepResult = .fault k ↔ s.runState = .halted ∧ s.faultKind = k)

/-! ### Control transfer -/

/-- 40_control_flow.md R110: RET. -/
def Obligations.RetPopsTheStack : Prop :=
  decodeWord 0x00EE = some .ret ∧
  ∀ s : State,
    (s.sp = 0 → ∃ t, exec .ret s = .next t ∧ FaultTaken .stackUnderflow (s.pc - 2) 0x00EE 0 s t) ∧
    (∀ j : Fin 16, s.sp.toNat = j.val + 1 →
      ∃ t, exec .ret s = .next t ∧ t.sp.toNat = j.val ∧ t.pc = s.stack[j.val] ∧ Unchanged [.pc, .sp] s t)

/-- 40_control_flow.md R111: JP nnn. -/
def Obligations.JumpSetsPc : Prop :=
  ∀ (nnn : Addr12) (s : State),
    decodeWord (wordNnn 0x1 nnn) = some (.jp nnn) ∧
    ∃ t, exec (.jp nnn) s = .next t ∧ t.pc.toNat = nnn.toNat ∧ Unchanged [.pc] s t

/-- 40_control_flow.md R112: CALL nnn. -/
def Obligations.CallPushesReturnAddress : Prop :=
  ∀ (nnn : Addr12) (s : State),
    decodeWord (wordNnn 0x2 nnn) = some (.call nnn) ∧
    (s.sp.toNat = 16 →
      ∃ t, exec (.call nnn) s = .next t ∧ FaultTaken .stackOverflow (s.pc - 2) (wordNnn 0x2 nnn) 0 s t) ∧
    (∀ j : Fin 16, s.sp.toNat = j.val →
      ∃ t, exec (.call nnn) s = .next t ∧ t.stack[j.val] = s.pc ∧
        (∀ k : Fin 16, k ≠ j → t.stack[k.val] = s.stack[k.val]) ∧
        t.sp.toNat = j.val + 1 ∧ t.pc.toNat = nnn.toNat ∧ Unchanged [.pc, .sp, .stack] s t)

/-- 40_control_flow.md R113, R114: the skips on an immediate. -/
def Obligations.SkipsOnImmediate : Prop :=
  ∀ (x : Reg) (kk : Byte) (s : State),
    decodeWord (wordXkk 0x3 x kk) = some (.seKk x kk) ∧
    decodeWord (wordXkk 0x4 x kk) = some (.sneKk x kk) ∧
    (∃ t, exec (.seKk x kk) s = .next t ∧ t.pc = (if s.getV x = kk then s.pc + 2 else s.pc) ∧
      Unchanged [.pc] s t) ∧
    (∃ t, exec (.sneKk x kk) s = .next t ∧ t.pc = (if s.getV x ≠ kk then s.pc + 2 else s.pc) ∧
      Unchanged [.pc] s t)

/-- 40_control_flow.md R115, R116: the skips on two registers; with x = y SE always skips and SNE never. -/
def Obligations.SkipsOnRegisters : Prop :=
  ∀ (x y : Reg) (s : State),
    decodeWord (wordXyn 0x5 x y 0) = some (.seVy x y) ∧
    decodeWord (wordXyn 0x9 x y 0) = some (.sneVy x y) ∧
    (∀ n : Nibble, n ≠ 0 → decodeWord (wordXyn 0x5 x y n) = none ∧ decodeWord (wordXyn 0x9 x y n) = none) ∧
    (∃ t, exec (.seVy x y) s = .next t ∧ t.pc = (if s.getV x = s.getV y then s.pc + 2 else s.pc) ∧
      Unchanged [.pc] s t) ∧
    (∃ t, exec (.sneVy x y) s = .next t ∧ t.pc = (if s.getV x ≠ s.getV y then s.pc + 2 else s.pc) ∧
      Unchanged [.pc] s t)

/-- 40_control_flow.md R117: JP V0, nnn, the exact sum with no mask, always V0. -/
def Obligations.JumpWithOffset : Prop :=
  ∀ (nnn : Addr12) (s : State),
    decodeWord (wordNnn 0xB nnn) = some (.jpV0 nnn) ∧
    ∃ t, exec (.jpV0 nnn) s = .next t ∧ t.pc.toNat = nnn.toNat + (s.getV 0).toNat ∧ t.pc.toNat ≤ 0x10FE ∧
      Unchanged [.pc] s t

/-- 70_reset_and_hazards.md R246 and 40_control_flow.md R111: a STEP at a parked loop (1nnn with nnn = PC) changes
nothing. -/
def Obligations.ParkedLoopStandsStill : Prop :=
  ∀ (s : State) (nnn : Addr12), s.Executes (.jp nnn) → nnn.toNat = s.pc.toNat → step s = .next s

/-! ### ALU -/

/-- 41_alu.md R132, R134: the two register loads. -/
def Obligations.RegisterLoads : Prop :=
  ∀ (x y : Reg) (kk : Byte) (s : State),
    decodeWord (wordXkk 0x6 x kk) = some (.ldKk x kk) ∧
    decodeWord (wordXyn 0x8 x y 0x0) = some (.ldVy x y) ∧
    (∃ t, exec (.ldKk x kk) s = .next t ∧ t.getV x = kk ∧ RegsUnchangedBut [x] s t ∧ Unchanged [.regs] s t) ∧
    (∃ t, exec (.ldVy x y) s = .next t ∧ t.getV x = s.getV y ∧ RegsUnchangedBut [x] s t ∧ Unchanged [.regs] s t)

/-- 41_alu.md R133: ADD Vx, kk wraps modulo 256 and writes no flag. -/
def Obligations.AddImmediateWrapsWithoutFlag : Prop :=
  ∀ (x : Reg) (kk : Byte) (s : State),
    decodeWord (wordXkk 0x7 x kk) = some (.addKk x kk) ∧
    ∃ t, exec (.addKk x kk) s = .next t ∧ (t.getV x).toNat = ((s.getV x).toNat + kk.toNat) % 256 ∧
      RegsUnchangedBut [x] s t ∧ Unchanged [.regs] s t

/-- 41_alu.md R135 to R137: OR, AND, XOR; VF is set to 0 only with LOGIC_VF_RESET, which this hardware leaves
off. -/
def Obligations.LogicOperations : Prop :=
  ∀ (x y : Reg) (s : State),
    decodeWord (wordXyn 0x8 x y 0x1) = some (.orVy x y) ∧
    decodeWord (wordXyn 0x8 x y 0x2) = some (.andVy x y) ∧
    decodeWord (wordXyn 0x8 x y 0x3) = some (.xorVy x y) ∧
    (∃ t, exec (.orVy x y) s = .next t ∧ t.getV x = s.getV x ||| s.getV y ∧ RegsUnchangedBut [x] s t ∧
      Unchanged [.regs] s t) ∧
    (∃ t, exec (.andVy x y) s = .next t ∧ t.getV x = s.getV x &&& s.getV y ∧ RegsUnchangedBut [x] s t ∧
      Unchanged [.regs] s t) ∧
    (∃ t, exec (.xorVy x y) s = .next t ∧ t.getV x = s.getV x ^^^ s.getV y ∧ RegsUnchangedBut [x] s t ∧
      Unchanged [.regs] s t) ∧
    (∀ (c : Config) (i : Instr) (r : Byte),
      (i = .orVy x y ∧ r = s.getV x ||| s.getV y ∨ i = .andVy x y ∧ r = s.getV x &&& s.getV y ∨
        i = .xorVy x y ∧ r = s.getV x ^^^ s.getV y) →
      ∃ t, execWith c i s = .next t ∧
        t.getV regF = (if c.logicVfReset = true then 0 else if x = regF then r else s.getV regF) ∧
        (x ≠ regF → t.getV x = r) ∧ RegsUnchangedBut [x, regF] s t ∧ Unchanged [.regs] s t)

/-- 41_alu.md R138: ADD Vx, Vy, the sum modulo 256 and then the carry in VF. -/
def Obligations.AddSetsCarry : Prop :=
  ∀ (x y : Reg) (s : State),
    decodeWord (wordXyn 0x8 x y 0x4) = some (.addVy x y) ∧
    ∃ t, exec (.addVy x y) s = .next t ∧
      t.getV regF = (if (s.getV x).toNat + (s.getV y).toNat > 255 then 1 else 0) ∧
      (x ≠ regF → (t.getV x).toNat = ((s.getV x).toNat + (s.getV y).toNat) % 256) ∧
      RegsUnchangedBut [x, regF] s t ∧ Unchanged [.regs] s t

/-- 41_alu.md R139, R141: SUB and SUBN; on this hardware VF is 1 exactly when the subtraction borrowed, and with
BORROW_SENSE = not_borrow exactly when it did not. -/
def Obligations.SubtractSetsBorrow : Prop :=
  ∀ (x y : Reg) (s : State),
    decodeWord (wordXyn 0x8 x y 0x5) = some (.subVy x y) ∧
    decodeWord (wordXyn 0x8 x y 0x7) = some (.subnVy x y) ∧
    (∃ t, exec (.subVy x y) s = .next t ∧
      t.getV regF = (if (s.getV x).toNat < (s.getV y).toNat then 1 else 0) ∧
      (x ≠ regF → ((t.getV x).toNat : Int) = ((s.getV x).toNat - (s.getV y).toNat : Int) % 256) ∧
      RegsUnchangedBut [x, regF] s t ∧ Unchanged [.regs] s t) ∧
    (∃ t, exec (.subnVy x y) s = .next t ∧
      t.getV regF = (if (s.getV y).toNat < (s.getV x).toNat then 1 else 0) ∧
      (x ≠ regF → ((t.getV x).toNat : Int) = ((s.getV y).toNat - (s.getV x).toNat : Int) % 256) ∧
      RegsUnchangedBut [x, regF] s t ∧ Unchanged [.regs] s t) ∧
    (∀ c : Config, c.borrowSense = .notBorrow →
      (∃ t, execWith c (.subVy x y) s = .next t ∧
        t.getV regF = (if (s.getV x).toNat ≥ (s.getV y).toNat then 1 else 0) ∧
        (x ≠ regF → ((t.getV x).toNat : Int) = ((s.getV x).toNat - (s.getV y).toNat : Int) % 256) ∧
        RegsUnchangedBut [x, regF] s t ∧ Unchanged [.regs] s t) ∧
      (∃ t, execWith c (.subnVy x y) s = .next t ∧
        t.getV regF = (if (s.getV y).toNat ≥ (s.getV x).toNat then 1 else 0) ∧
        (x ≠ regF → ((t.getV x).toNat : Int) = ((s.getV y).toNat - (s.getV x).toNat : Int) % 256) ∧
        RegsUnchangedBut [x, regF] s t ∧ Unchanged [.regs] s t))

/-- 41_alu.md R140, R142: SHR and SHL shift V[x] on this hardware, V[y] with SHIFT_SRC = vy, and VF is the bit
shifted out. -/
def Obligations.ShiftsByOne : Prop :=
  ∀ (x y : Reg) (s : State),
    decodeWord (wordXyn 0x8 x y 0x6) = some (.shrVy x y) ∧
    decodeWord (wordXyn 0x8 x y 0xE) = some (.shlVy x y) ∧
    (∃ t, exec (.shrVy x y) s = .next t ∧ (t.getV regF).toNat = (s.getV x).toNat % 2 ∧
      (x ≠ regF → (t.getV x).toNat = (s.getV x).toNat / 2) ∧
      RegsUnchangedBut [x, regF] s t ∧ Unchanged [.regs] s t) ∧
    (∃ t, exec (.shlVy x y) s = .next t ∧ (t.getV regF).toNat = (s.getV x).toNat / 128 ∧
      (x ≠ regF → (t.getV x).toNat = (s.getV x).toNat * 2 % 256) ∧
      RegsUnchangedBut [x, regF] s t ∧ Unchanged [.regs] s t) ∧
    (∀ c : Config, c.shiftSrc = .vy →
      (∃ t, execWith c (.shrVy x y) s = .next t ∧ (t.getV regF).toNat = (s.getV y).toNat % 2 ∧
        (x ≠ regF → (t.getV x).toNat = (s.getV y).toNat / 2) ∧
        RegsUnchangedBut [x, regF] s t ∧ Unchanged [.regs] s t) ∧
      (∃ t, execWith c (.shlVy x y) s = .next t ∧ (t.getV regF).toNat = (s.getV y).toNat / 128 ∧
        (x ≠ regF → (t.getV x).toNat = (s.getV y).toNat * 2 % 256) ∧
        RegsUnchangedBut [x, regF] s t ∧ Unchanged [.regs] s t))

/-- 41_alu.md R143: RND Vx, kk writes some byte ANDed with kk, and no flag. The draw is a free value (log entry 2):
the second part holds for EVERY draw r, and says what the machine does with the one it gets. -/
def Obligations.RandomByteIsMasked : Prop :=
  ∀ (x : Reg) (kk : Byte) (s : State),
    decodeWord (wordXkk 0xC x kk) = some (.rnd x kk) ∧
    (∃ (r : Byte) (t : State), exec (.rnd x kk) s = .next t ∧ t = rndOfDraw r x kk s ∧ t.getV x = r &&& kk ∧
      RegsUnchangedBut [x] s t ∧ Unchanged [.regs, .draws] s t) ∧
    (∀ r : Byte, (rndOfDraw r x kk s).getV x = r &&& kk ∧ RegsUnchangedBut [x] s (rndOfDraw r x kk s) ∧
      Unchanged [.regs, .draws] s (rndOfDraw r x kk s))

/-! ### Index register and memory -/

/-- 42_index_memory.md R160, R161: LD I, nnn, and ADD I, Vx modulo 2^16 without a flag. -/
def Obligations.IndexLoadsAndAdds : Prop :=
  ∀ (nnn : Addr12) (x : Reg) (s : State),
    decodeWord (wordNnn 0xA nnn) = some (.ldI nnn) ∧
    decodeWord (wordXkk 0xF x 0x1E) = some (.addIVx x) ∧
    (∃ t, exec (.ldI nnn) s = .next t ∧ t.i.toNat = nnn.toNat ∧ Unchanged [.index] s t) ∧
    (∃ t, exec (.addIVx x) s = .next t ∧ t.i.toNat = (s.i.toNat + (s.getV x).toNat) % 65536 ∧
      Unchanged [.index] s t)

/-- 42_index_memory.md R162: LD F, Vx points I at the glyph of the low nibble of V[x]. -/
def Obligations.IndexPointsAtGlyph : Prop :=
  ∀ (x : Reg) (s : State),
    decodeWord (wordXkk 0xF x 0x29) = some (.ldFVx x) ∧
    (∃ t, exec (.ldFVx x) s = .next t ∧ t.i.toNat = 0x050 + 5 * ((s.getV x).toNat % 16) ∧ Unchanged [.index] s t) ∧
    (∀ c : Config, c.wf = true →
      ∃ t, execWith c (.ldFVx x) s = .next t ∧ t.i.toNat = c.fontBase.toNat + 5 * ((s.getV x).toNat % 16) ∧
        Unchanged [.index] s t)

/-- 42_index_memory.md R163: LD B, Vx stores hundreds, tens and ones at I, I + 1 and I + 2, or faults and writes
nothing. -/
def Obligations.DecimalDigitsStored : Prop :=
  ∀ (x : Reg) (s : State),
    decodeWord (wordXkk 0xF x 0x33) = some (.ldBVx x) ∧
    (0xFFF < s.i.toNat + 2 →
      ∃ t, exec (.ldBVx x) s = .next t ∧
        FaultTaken .memoryOutOfBounds (s.pc - 2) (wordXkk 0xF x 0x33) (BitVec.ofNat 16 (max s.i.toNat 0x1000)) s t) ∧
    (s.i.toNat < 0x200 →
      ∃ t, exec (.ldBVx x) s = .next t ∧
        FaultTaken .reservedRegion (s.pc - 2) (wordXkk 0xF x 0x33) s.i s t) ∧
    (Memory.wf hwParams s.mem = true → 0x200 ≤ s.i.toNat → s.i.toNat + 2 ≤ 0xFFF →
      ∃ t, exec (.ldBVx x) s = .next t ∧
        (t.byteAt s.i.toNat).toNat = (s.getV x).toNat / 100 ∧
        (t.byteAt (s.i.toNat + 1)).toNat = (s.getV x).toNat / 10 % 10 ∧
        (t.byteAt (s.i.toNat + 2)).toNat = (s.getV x).toNat % 10 ∧
        (∀ a, a < s.i.toNat ∨ s.i.toNat + 2 < a → t.byteAt a = s.byteAt a) ∧
        Unchanged [.mem] s t) ∧
    (∀ c : Config, c.guardReserved = false → Memory.wf c s.mem = true → s.i.toNat + 2 ≤ 0xFFF →
      ∃ t, execWith c (.ldBVx x) s = .next t ∧
        (Memory.read c t.mem s.i.toNat).toNat = (s.getV x).toNat / 100 ∧
        (Memory.read c t.mem (s.i.toNat + 1)).toNat = (s.getV x).toNat / 10 % 10 ∧
        (Memory.read c t.mem (s.i.toNat + 2)).toNat = (s.getV x).toNat % 10 ∧
        (∀ a, a < s.i.toNat ∨ s.i.toNat + 2 < a → Memory.read c t.mem a = Memory.read c s.mem a) ∧
        Unchanged [.mem] s t)

/-- 42_index_memory.md R164: LD [I], Vx stores V0 to Vx at I, or faults and writes nothing; I moves only with
LS_INCREMENT = x_plus_1, and without GUARD_RESERVED (20_memory.md R60) the reserved area is stored to as well. -/
def Obligations.BulkStore : Prop :=
  ∀ (x : Reg) (s : State),
    decodeWord (wordXkk 0xF x 0x55) = some (.ldMemVx x) ∧
    (0xFFF < s.i.toNat + x.val →
      ∃ t, exec (.ldMemVx x) s = .next t ∧
        FaultTaken .memoryOutOfBounds (s.pc - 2) (wordXkk 0xF x 0x55) (BitVec.ofNat 16 (max s.i.toNat 0x1000)) s t) ∧
    (s.i.toNat < 0x200 →
      ∃ t, exec (.ldMemVx x) s = .next t ∧
        FaultTaken .reservedRegion (s.pc - 2) (wordXkk 0xF x 0x55) s.i s t) ∧
    (Memory.wf hwParams s.mem = true → 0x200 ≤ s.i.toNat → s.i.toNat + x.val ≤ 0xFFF →
      ∃ t, exec (.ldMemVx x) s = .next t ∧
        (∀ j : Reg, j ≤ x → t.byteAt (s.i.toNat + j.val) = s.getV j) ∧
        (∀ a, a < s.i.toNat ∨ s.i.toNat + x.val < a → t.byteAt a = s.byteAt a) ∧
        Unchanged [.mem] s t) ∧
    (∀ c : Config, c.lsIncrement = .unchanged → s.i.toNat + x.val ≤ 0xFFF →
      (c.guardReserved = true → c.programStart.toNat ≤ s.i.toNat) → Memory.wf c s.mem = true →
      ∃ t, execWith c (.ldMemVx x) s = .next t ∧
        (∀ j : Reg, j ≤ x → Memory.read c t.mem (s.i.toNat + j.val) = s.getV j) ∧
        (∀ a, a < s.i.toNat ∨ s.i.toNat + x.val < a → Memory.read c t.mem a = Memory.read c s.mem a) ∧
        Unchanged [.mem] s t) ∧
    (∀ c : Config, c.lsIncrement = .xPlus1 → s.i.toNat + x.val ≤ 0xFFF →
      (c.guardReserved = true → c.programStart.toNat ≤ s.i.toNat) → Memory.wf c s.mem = true →
      ∃ t, execWith c (.ldMemVx x) s = .next t ∧ t.i.toNat = (s.i.toNat + x.val + 1) % 65536 ∧
        (∀ j : Reg, j ≤ x → Memory.read c t.mem (s.i.toNat + j.val) = s.getV j) ∧
        (∀ a, a < s.i.toNat ∨ s.i.toNat + x.val < a → Memory.read c t.mem a = Memory.read c s.mem a) ∧
        Unchanged [.mem, .index] s t)

/-- 42_index_memory.md R165: LD Vx, [I] loads V0 to Vx from I, or faults and writes no register; the reserved area
may be read; I moves only with LS_INCREMENT = x_plus_1. -/
def Obligations.BulkLoad : Prop :=
  ∀ (x : Reg) (s : State),
    decodeWord (wordXkk 0xF x 0x65) = some (.ldVxMem x) ∧
    (0xFFF < s.i.toNat + x.val →
      ∃ t, exec (.ldVxMem x) s = .next t ∧
        FaultTaken .memoryOutOfBounds (s.pc - 2) (wordXkk 0xF x 0x65) (BitVec.ofNat 16 (max s.i.toNat 0x1000)) s t) ∧
    (s.i.toNat + x.val ≤ 0xFFF →
      ∃ t, exec (.ldVxMem x) s = .next t ∧
        (∀ j : Reg, t.getV j = if j ≤ x then s.byteAt (s.i.toNat + j.val) else s.getV j) ∧
        Unchanged [.regs] s t) ∧
    (∀ c : Config, c.lsIncrement = .xPlus1 → s.i.toNat + x.val ≤ 0xFFF →
      ∃ t, execWith c (.ldVxMem x) s = .next t ∧ t.i.toNat = (s.i.toNat + x.val + 1) % 65536 ∧
        (∀ j : Reg, t.getV j = if j ≤ x then Memory.read c s.mem (s.i.toNat + j.val) else s.getV j) ∧
        Unchanged [.regs, .index] s t)

/-- What Fx55 stores, Fx65 with the same x and I loads back, whatever the registers hold in between. -/
def Obligations.BulkLoadUndoesBulkStore : Prop :=
  ∀ (x : Reg) (s t : State) (regs : Vector Byte 16), Memory.wf hwParams s.mem = true → 0x200 ≤ s.i.toNat →
    s.i.toNat + x.val ≤ 0xFFF → exec (.ldMemVx x) s = .next t →
    ∃ u, exec (.ldVxMem x) { t with v := regs } = .next u ∧
      (∀ j : Reg, j ≤ x → u.getV j = s.getV j) ∧ (∀ j : Reg, x < j → u.getV j = regs[j.val])

/-- 20_memory.md R68 and 70_reset_and_hazards.md R252: the opcode that the STEP after an Fx55 or an Fx33 fetches is
made, byte by byte, of what that instruction stored there, and elsewhere of what memory held: also when the store
overwrote its own successor, whole or by one byte. -/
def Obligations.StoredCodeIsFetched : Prop :=
  ∀ (x : Reg) (s t : State), Memory.wf hwParams s.mem = true → 0x200 ≤ s.i.toNat → step s = .next t →
    (s.Executes (.ldMemVx x) → s.i.toNat + x.val ≤ 0xFFF →
      let byte (a : Nat) : Byte :=
        if s.i.toNat ≤ a ∧ a ≤ s.i.toNat + x.val then s.getV (Fin.ofNat 16 (a - s.i.toNat)) else s.byteAt a
      t.pc = s.pc + 2 ∧
        t.opcodeAtPc.toNat = (byte (s.pc.toNat + 2)).toNat * 256 + (byte (s.pc.toNat + 3)).toNat) ∧
    (s.Executes (.ldBVx x) → s.i.toNat + 2 ≤ 0xFFF →
      let byte (a : Nat) : Nat :=
        if a = s.i.toNat then (s.getV x).toNat / 100
        else if a = s.i.toNat + 1 then (s.getV x).toNat / 10 % 10
        else if a = s.i.toNat + 2 then (s.getV x).toNat % 10
        else (s.byteAt a).toNat
      t.pc = s.pc + 2 ∧ t.opcodeAtPc.toNat = byte (s.pc.toNat + 2) * 256 + byte (s.pc.toNat + 3))

/-! ### Display -/

/-- 43_display.md R181: CLS clears every pixel and changes nothing else. -/
def Obligations.ClearDisplay : Prop :=
  decodeWord 0x00E0 = some .cls ∧
  ∀ s : State, ∃ t, exec .cls s = .next t ∧ (∀ py px, t.disp.pixel py px = false) ∧ Unchanged [.disp] s t

/-- 43_display.md R182 to R184: DRW XORs the sprite at I, wrapping, into the display, and VF is 1 exactly when a
pixel went from 1 to 0; an out-of-range sprite faults with the display and VF unchanged, and n = 0 reads nothing. -/
def Obligations.DrawXorsTheSprite : Prop :=
  ∀ (x y : Reg) (n : Nibble) (s : State),
    decodeWord (wordXyn 0xD x y n) = some (.drw x y n) ∧
    (n ≠ 0 → 0xFFF < s.i.toNat + n.toNat - 1 →
      ∃ t, exec (.drw x y n) s = .next t ∧
        FaultTaken .memoryOutOfBounds (s.pc - 2) (wordXyn 0xD x y n) (BitVec.ofNat 16 (max s.i.toNat 0x1000)) s t) ∧
    (n = 0 ∨ s.i.toNat + n.toNat - 1 ≤ 0xFFF →
      let rows := (List.range n.toNat).map fun r => s.byteAt (s.i.toNat + r)
      let bit := SpriteBit (s.getV x) (s.getV y) rows
      ∃ t, exec (.drw x y n) s = .next t ∧
        (∀ py px, t.disp.pixel py px = true ↔
          (s.disp.pixel py px = true ∧ ¬bit py px) ∨ (s.disp.pixel py px = false ∧ bit py px)) ∧
        ((∃ py px, s.disp.pixel py px = true ∧ t.disp.pixel py px = false) → t.getV regF = 1) ∧
        ((∀ py px, s.disp.pixel py px = true → t.disp.pixel py px = true) → t.getV regF = 0) ∧
        RegsUnchangedBut [regF] s t ∧ Unchanged [.regs, .disp] s t)

/-- Drawing the same sprite twice at the same place restores the display, and the second draw collides exactly when
the first one set a pixel (43_display.md, the corner cases of DRW; log entry 13: the spec's sentence says only that
the sprite has a 1 bit, which is enough on a display that is clear there). -/
def Obligations.DrawTwiceRestores : Prop :=
  ∀ (x y : Reg) (n : Nibble) (s t u : State), x ≠ regF → y ≠ regF → s.i.toNat + n.toNat ≤ 0x1000 →
    exec (.drw x y n) s = .next t → exec (.drw x y n) t = .next u →
    u.disp = s.disp ∧
    ((∃ py px, s.disp.pixel py px = false ∧ t.disp.pixel py px = true) → u.getV regF = 1) ∧
    ((∀ py px, t.disp.pixel py px = true → s.disp.pixel py px = true) → u.getV regF = 0)

/-- Coordinates count modulo the display's width and height: drawing at (width, height) behaves as at (0, 0)
(43_display.md, the display geometry). -/
def Obligations.DrawCoordinatesWrap : Prop :=
  ∀ (x y : Reg) (n : Nibble) (s s' t t' : State), s' = { s with v := s'.v } →
    (s.getV x).toNat % 64 = (s'.getV x).toNat % 64 → (s.getV y).toNat % 32 = (s'.getV y).toNat % 32 →
    s.i.toNat + n.toNat ≤ 0x1000 →
    exec (.drw x y n) s = .next t → exec (.drw x y n) s' = .next t' →
    t.disp = t'.disp ∧ t.getV regF = t'.getV regF

/-! ### Keys and timers -/

/-- 44_input_timers.md R190 to R192: SKP and SKNP test the key of V[x], of its low nibble when V[x] exceeds 0xF on
this hardware; with KEY_INDEX_MODE = fault such a value raises KeyIndexOutOfRange. -/
def Obligations.SkipsOnKey : Prop :=
  ∀ (x : Reg) (k : Key) (s : State),
    decodeWord (wordXkk 0xE x 0x9E) = some (.skp x) ∧
    decodeWord (wordXkk 0xE x 0xA1) = some (.sknp x) ∧
    ((s.getV x).toNat % 16 = k.val →
      (∃ t, exec (.skp x) s = .next t ∧ t.pc = (if s.keyDown k = true then s.pc + 2 else s.pc) ∧
        Unchanged [.pc] s t) ∧
      (∃ t, exec (.sknp x) s = .next t ∧ t.pc = (if s.keyDown k = false then s.pc + 2 else s.pc) ∧
        Unchanged [.pc] s t)) ∧
    (∀ c : Config, (s.getV x).toNat ≤ 0xF ∨ c.keyIndexMode = .mask →
      execWith c (.skp x) s = exec (.skp x) s ∧ execWith c (.sknp x) s = exec (.sknp x) s) ∧
    (∀ c : Config, 0xF < (s.getV x).toNat → c.keyIndexMode = .fault →
      (∃ t, execWith c (.skp x) s = .next t ∧
        FaultTaken .keyIndexOutOfRange (s.pc - 2) (wordXkk 0xE x 0x9E) 0 s t) ∧
      (∃ t, execWith c (.sknp x) s = .next t ∧
        FaultTaken .keyIndexOutOfRange (s.pc - 2) (wordXkk 0xE x 0xA1) 0 s t))

/-- 44_input_timers.md R193 to R195: the timer instructions. -/
def Obligations.TimerInstructions : Prop :=
  ∀ (x : Reg) (s : State),
    decodeWord (wordXkk 0xF x 0x07) = some (.ldVxDt x) ∧
    decodeWord (wordXkk 0xF x 0x15) = some (.ldDtVx x) ∧
    decodeWord (wordXkk 0xF x 0x18) = some (.ldStVx x) ∧
    (∃ t, exec (.ldVxDt x) s = .next t ∧ t.getV x = s.dt ∧ RegsUnchangedBut [x] s t ∧ Unchanged [.regs] s t) ∧
    (∃ t, exec (.ldDtVx x) s = .next t ∧ t.dt = s.getV x ∧ Unchanged [.dt] s t) ∧
    (∃ t, exec (.ldStVx x) s = .next t ∧ t.st = s.getV x ∧ (t.soundOn = true ↔ s.getV x ≠ 0) ∧
      Unchanged [.st] s t)

/-- 44_input_timers.md R196 with R197: LD Vx, K stores the lowest pressed key at once on this hardware, or begins
the wait with PC as it is; with KEY_WAIT_MODE = edge the wait always begins, on a snapshot of the latch. No STEP in
AwaitingKey, in either mode, moves PC. -/
def Obligations.KeyWaitBegins : Prop :=
  ∀ (x : Reg) (s : State),
    decodeWord (wordXkk 0xF x 0x0A) = some (.ldVxK x) ∧
    (∀ k, s.keyDown k = true → (∀ j, j < k → s.keyDown j = false) →
      ∃ t, exec (.ldVxK x) s = .next t ∧ (t.getV x).toNat = k.val ∧ RegsUnchangedBut [x] s t ∧
        Unchanged [.regs] s t) ∧
    ((∀ k, s.keyDown k = false) →
      ∃ t, exec (.ldVxK x) s = .next t ∧ t.waitX = x ∧ t.runState = .awaitingKey ∧
        Unchanged [.waitX, .runState] s t) ∧
    (∀ c : Config, c.keyWaitMode = .level → execWith c (.ldVxK x) s = exec (.ldVxK x) s) ∧
    (∀ c : Config, c.keyWaitMode = .edge →
      ∃ t, execWith c (.ldVxK x) s = .next t ∧ t.waitX = x ∧ t.runState = .awaitingKey ∧ t.keyPrev = s.key ∧
        Unchanged [.waitX, .runState, .keyPrev] s t) ∧
    (∀ (c : Config) (w : State), w.runState = .awaitingKey → ∃ t, stepWith c w = .next t ∧ t.pc = w.pc)

/-- In AwaitingKey with no key pressed, no number of STEPs and TICKs ends the wait or moves anything but the timers
(60_exceptions.md, wait states; 70_reset_and_hazards.md, the key wait). -/
def Obligations.WaitNeedsAKeyPress : Prop :=
  ∀ (s : State) (ts : List Transaction), s.runState = .awaitingKey → (∀ k, s.keyDown k = false) →
    (∀ t ∈ ts, t = .step ∨ t = .tick) →
    ∃ u, runTransactions ts s = .next u ∧ Unchanged [.dt, .st] s u

/-! ### Faults -/

/-- 60_exceptions.md R213: when a STEP of a Running state faults, everything but the fault record and RUNSTATE is as
it was before the STEP; PC is A + 2 with FAULT_OP the opcode when the instruction was fetched, and A with FAULT_OP 0
for a fetch fault; FAULT_PC is A. -/
def Obligations.FaultsArePrecise : Prop :=
  ∀ s t : State, s.runState = .running → step s = .next t → t.runState = .halted →
    t.faultPc = s.pc ∧ t.faultKind ≠ .none ∧ Unchanged [.pc, .runState, .faultRecord] s t ∧
    (Fetchable s.pc → t.pc = s.pc + 2 ∧ t.faultOp = s.opcodeAtPc) ∧
    (¬Fetchable s.pc → t.pc = s.pc ∧ t.faultOp = 0)

/-- Every instruction answers a next state wherever SP counts at most 16 entries; above that CALL and RET stop the
model and every other instruction still answers a next state. That stop, where no run arrives, is the model's
choice (log entry 3; 10_state.md, the stack pointer). -/
def Obligations.EveryInstructionCompletes : Prop :=
  ∀ (i : Instr) (s : State),
    (s.sp.toNat ≤ 16 → ∃ t, exec i s = .next t) ∧
    (i ≠ .ret → (∀ nnn, i ≠ .call nnn) → ∃ t, exec i s = .next t) ∧
    (∀ nnn, 16 < s.sp.toNat → (i = .ret ∨ i = .call nnn) → exec i s = .fault .stackPointerOutOfRange)

/-! ### The host's transactions -/

/-- 60_exceptions.md R221: TICK decrements each timer by 1, clamped at 0, in every run state, and touches nothing
else. -/
def Obligations.TickCountsDown : Prop :=
  ∀ s : State, ∃ t, transact .tick s = .next t ∧
    t.dt.toNat = (if s.dt.toNat > 0 then s.dt.toNat - 1 else 0) ∧
    t.st.toNat = (if s.st.toNat > 0 then s.st.toNat - 1 else 0) ∧ Unchanged [.dt, .st] s t

/-- After N TICKs each timer is max(0, T - N), however many STEPs and SET_KEYs lie between, as long as no STEP
executed Fx15 or Fx18: stated as the two halves, N TICKs in a row, and a STEP that executes neither
(95_test_vectors.md W7). -/
def Obligations.TimersCountTicksNotSteps : Prop :=
  (∀ (s : State) (n : Nat), ∃ t, runTransactions (List.replicate n .tick) s = .next t ∧
    t.dt.toNat = s.dt.toNat - n ∧ t.st.toNat = s.st.toNat - n ∧ Unchanged [.dt, .st] s t) ∧
  (∀ s t : State, step s = .next t → (∀ x, ¬s.Executes (.ldDtVx x)) → t.dt = s.dt) ∧
  (∀ s t : State, step s = .next t → (∀ x, ¬s.Executes (.ldStVx x)) → t.st = s.st)

/-- 60_exceptions.md R224: SET_KEY(k, p) writes KEY[k] and nothing else, in every run state. -/
def Obligations.SetKeyWritesOneKey : Prop :=
  ∀ (s : State) (k : Key) (p : Bool), ∃ t, transact (.setKey k p) s = .next t ∧ t.keyDown k = p ∧
    (∀ j, j ≠ k → t.keyDown j = s.keyDown j) ∧ Unchanged [.key] s t

/-- The outputs: sound_on (60_exceptions.md R223), READ_PIXEL and is_pressed (R225), and the status (R226, 10_state.md
R37) with the codes of FAULT_KIND (R211) and RUNSTATE (R40). That the status has WAIT_X and KEY_PREV, of which R226's
table is silent, is read from R37 and so the model's reading (DEDUCED, log entry 20). -/
def Obligations.OutputsReadTheState : Prop :=
  (∀ s : State, (s.soundOn = true ↔ s.st.toNat ≠ 0) ∧
    (∀ (px : Fin 64) (py : Fin 32), s.readPixel px py = (s.disp[py.val])[px.val]) ∧
    (∀ k : Key, s.isPressed k = s.key[k.val]) ∧
    s.status = { runState := runStateCode s.runState, waitX := s.waitX, keyPrev := s.keyPrev
                 faultKind := faultCode s.faultKind, faultPc := s.faultPc, faultOp := s.faultOp
                 faultAddr := s.faultAddr }) ∧
  ([FaultKind.none, .unknownOpcode, .stackUnderflow, .stackOverflow, .memoryOutOfBounds, .misalignedPc,
    .reservedRegion, .keyIndexOutOfRange].map fun k => (faultCode k).toNat) = [0, 1, 2, 3, 4, 5, 6, 7] ∧
  ([RunState.running, .awaitingKey, .halted].map runStateCode) = [0, 1, 2]

/-- 70_reset_and_hazards.md R241: a ROM of more than 3584 bytes is refused and changes nothing; one of exactly 3584
bytes is accepted. -/
def Obligations.LoadVerdictAtTheBoundary : Prop :=
  ∀ (s : State) (rom : List Byte),
    (3584 < rom.length → load hwParams rom s = (s, .romTooLarge) ∧ transact (.load rom) s = .next s) ∧
    (rom.length ≤ 3584 → (load hwParams rom s).2 = .ok)

/-- 70_reset_and_hazards.md R242, at any legal parameters: LOAD zeroes memory, writes the font and the ROM, resets
every register, timer, pixel, run state and fault record, and leaves KEY. -/
def Obligations.LoadResets : Prop :=
  ∀ (c : Config) (s : State) (rom : List Byte), c.wf = true → rom.length ≤ 0x1000 - c.programStart.toNat →
    ∃ t, load c rom s = (t, .ok) ∧
      (∀ a, a < 0x1000 → Memory.read c t.mem a =
        if c.programStart.toNat ≤ a ∧ a < c.programStart.toNat + rom.length then
          rom.getD (a - c.programStart.toNat) 0
        else if c.fontBase.toNat ≤ a ∧ a < c.fontBase.toNat + 80 then fontBytes.getD (a - c.fontBase.toNat) 0
        else 0) ∧
      (∀ r, t.getV r = 0) ∧ t.i = 0 ∧ t.pc = c.programStart ∧ t.sp = 0 ∧
      (∀ j : Fin 16, t.stack[j.val] = 0) ∧ t.dt = 0 ∧ t.st = 0 ∧ (∀ py px, t.disp.pixel py px = false) ∧
      t.runState = .running ∧ t.waitX = 0 ∧ (∀ k : Key, t.keyPrev[k.val] = false) ∧
      t.faultKind = .none ∧ t.faultPc = 0 ∧ t.faultOp = 0 ∧ t.faultAddr = 0 ∧ t.key = s.key

/-- 10_state.md R46 and 70_reset_and_hazards.md R240: what CONSTRUCT leaves, which is `State.reset`: LOAD of an empty
ROM with KEY cleared, the font being the 80 bytes of 20_memory.md R62 (which the spec marks as general knowledge: log
entry 7). The model's own `draws` is left out of the comparison; DrawCounterCountsDraws says what becomes of it. -/
def Obligations.ConstructGivesResetState : Prop :=
  (∀ s : State, { construct hwParams s with draws := State.reset.draws } = State.reset ∧
    { (load hwParams [] s).1 with key := State.reset.key, draws := State.reset.draws } = State.reset) ∧
  (∀ r, State.reset.getV r = 0) ∧ State.reset.i = 0 ∧ State.reset.pc = 0x200 ∧ State.reset.sp = 0 ∧
  (∀ j : Fin 16, State.reset.stack[j.val] = 0) ∧ State.reset.dt = 0 ∧ State.reset.st = 0 ∧
  (∀ py px, State.reset.disp.pixel py px = false) ∧ (∀ k, State.reset.keyDown k = false) ∧
  State.reset.runState = .running ∧ State.reset.waitX = 0 ∧ (∀ k : Key, State.reset.keyPrev[k.val] = false) ∧
  State.reset.faultKind = .none ∧ State.reset.faultPc = 0 ∧ State.reset.faultOp = 0 ∧ State.reset.faultAddr = 0 ∧
  ((List.range 80).map fun j => State.reset.byteAt (0x050 + j)) =
    [0xF0, 0x90, 0x90, 0x90, 0xF0, 0x20, 0x60, 0x20, 0x20, 0x70, 0xF0, 0x10, 0xF0, 0x80, 0xF0] ++   -- 0 1 2
    [0xF0, 0x10, 0xF0, 0x10, 0xF0, 0x90, 0x90, 0xF0, 0x10, 0x10, 0xF0, 0x80, 0xF0, 0x10, 0xF0] ++   -- 3 4 5
    [0xF0, 0x80, 0xF0, 0x90, 0xF0, 0xF0, 0x10, 0x20, 0x40, 0x40, 0xF0, 0x90, 0xF0, 0x90, 0xF0] ++   -- 6 7 8
    [0xF0, 0x90, 0xF0, 0x10, 0xF0, 0xF0, 0x90, 0xF0, 0x90, 0x90, 0xE0, 0x90, 0xE0, 0x90, 0xE0] ++   -- 9 A B
    [0xF0, 0x80, 0x80, 0x80, 0xF0, 0xE0, 0x90, 0x90, 0x90, 0xE0, 0xF0, 0x80, 0xF0, 0x80, 0xF0] ++   -- C D E
    [0xF0, 0x80, 0xF0, 0x80, 0x80] ∧                                                                -- F
  (∀ a, a < 0x050 ∨ 0x0A0 ≤ a ∧ a ≤ 0xFFF → State.reset.byteAt a = 0)

/-! ### Whole-machine rules -/

/-- 10_state.md R34, R35: a STEP changes the display only by executing 00E0 or Dxyn, and never the key latch. -/
def Obligations.DisplayAndKeysWriters : Prop :=
  ∀ s t : State, step s = .next t →
    t.key = s.key ∧ (t.disp ≠ s.disp → s.Executes .cls ∨ ∃ x y n, s.Executes (.drw x y n))

/-- 10_state.md R24 to R26 on this hardware: a STEP changes I only by executing Annn, Fx1E or Fx29, and SP and the
stack only by executing 2nnn or 00EE; RET leaves every entry of the stack. -/
def Obligations.IndexAndStackWriters : Prop :=
  ∀ s t : State, step s = .next t →
    (t.i ≠ s.i → (∃ nnn, s.Executes (.ldI nnn)) ∨ ∃ x, s.Executes (.addIVx x) ∨ s.Executes (.ldFVx x)) ∧
    (t.sp ≠ s.sp → s.Executes .ret ∨ ∃ nnn, s.Executes (.call nnn)) ∧
    (t.stack ≠ s.stack → ∃ nnn, s.Executes (.call nnn))

/-- 20_memory.md R50, R52, R60 on this hardware: a STEP changes a byte of memory only by executing Fx33 or Fx55, only
at I to I + 2 or I to I + x, and never below PROGRAM_START or outside memory. -/
def Obligations.MemoryWriters : Prop :=
  ∀ (s t : State) (a : Nat), Memory.wf hwParams s.mem = true → step s = .next t → t.byteAt a ≠ s.byteAt a →
    0x200 ≤ a ∧ a ≤ 0xFFF ∧
    ∃ x : Reg, (s.Executes (.ldBVx x) ∧ s.i.toNat ≤ a ∧ a ≤ s.i.toNat + 2) ∨
      (s.Executes (.ldMemVx x) ∧ s.i.toNat ≤ a ∧ a ≤ s.i.toNat + x.val)

/-- 10_state.md R36 on this hardware: a STEP that executes none of 8xy4 to 8xy7, 8xyE and Dxyn, and no instruction
whose destination is VF, leaves VF; a WaitStep writes only V[WAIT_X]. -/
def Obligations.FlagRegisterWriters : Prop :=
  ∀ s t : State, step s = .next t → t.getV regF ≠ s.getV regF →
    (s.runState = .awaitingKey ∧ s.waitX = regF) ∨
    (∃ x y, s.Executes (.addVy x y) ∨ s.Executes (.subVy x y) ∨ s.Executes (.subnVy x y) ∨
      s.Executes (.shrVy x y) ∨ s.Executes (.shlVy x y) ∨ ∃ n, s.Executes (.drw x y n)) ∨
    (∃ kk, s.Executes (.ldKk regF kk) ∨ s.Executes (.addKk regF kk) ∨ s.Executes (.rnd regF kk)) ∨
    (∃ y, s.Executes (.ldVy regF y) ∨ s.Executes (.orVy regF y) ∨ s.Executes (.andVy regF y) ∨
      s.Executes (.xorVy regF y)) ∨
    s.Executes (.ldVxDt regF) ∨ s.Executes (.ldVxK regF) ∨ s.Executes (.ldVxMem regF)

/-- 10_state.md R40 on this hardware: the transitions of RUNSTATE in a STEP. Running goes to AwaitingKey only by an
Fx0A with no key pressed; AwaitingKey goes to Running exactly when a key is pressed, and never to Halted; Halted
stays. -/
def Obligations.RunStateTransitions : Prop :=
  ∀ s t : State, step s = .next t →
    (s.runState = .running → t.runState = .awaitingKey →
      (∃ x, s.Executes (.ldVxK x) ∧ t.waitX = x) ∧ ∀ k, s.keyDown k = false) ∧
    (s.runState = .awaitingKey → (∃ k, s.keyDown k = true) → t.runState = .running) ∧
    (s.runState = .awaitingKey → (∀ k, s.keyDown k = false) → t.runState = .awaitingKey) ∧
    (s.runState = .halted → t.runState = .halted)

/-- The random input is drawn from by Cxkk alone (60_exceptions.md, the random-byte input), through the model's own
counter: a STEP that executes Cxkk adds 1 to `draws`, every other STEP and every other transaction leaves it. That
it runs on across CONSTRUCT and LOAD is the model's choice (DESIGN CHOICE, log entry 2). -/
def Obligations.DrawCounterCountsDraws : Prop :=
  (∀ s t : State, step s = .next t →
    (∀ x kk, s.Executes (.rnd x kk) → t.draws = s.draws + 1) ∧
    ((∀ x kk, ¬s.Executes (.rnd x kk)) → t.draws = s.draws)) ∧
  (∀ (tr : Transaction) (s : State), tr ≠ .step → ∃ t, transact tr s = .next t ∧ t.draws = s.draws)

/-- No instruction reads ST (10_state.md, the sound timer): two states that differ only in ST step to states that
differ only in ST, and stop alike. Both draw the same random byte if they draw, which is the model's choice
(log entry 2). -/
def Obligations.SoundTimerIsNeverRead : Prop :=
  ∀ (s : State) (b : Byte),
    (∀ t, step s = .next t → ∃ t', step { s with st := b } = .next t' ∧ t' = { t with st := t'.st }) ∧
    (∀ f, step s = .fault f → step { s with st := b } = .fault f)

/-- No rule reads a stale stack entry (10_state.md, the call stack): two states that differ only in entries at SP and
above step to states that differ only in such entries. Both draw the same random byte if they draw, which is the
model's choice (log entry 2). -/
def Obligations.StaleStackEntriesAreNeverRead : Prop :=
  ∀ (s t : State) (stk : Vector Word 16), s.sp.toNat ≤ 16 →
    (∀ j : Fin 16, j.val < s.sp.toNat → stk[j.val] = s.stack[j.val]) → step s = .next t →
    ∃ t', step { s with stack := stk } = .next t' ∧ t' = { t with stack := t'.stack } ∧
      ∀ j : Fin 16, j.val < t.sp.toNat → t'.stack[j.val] = t.stack[j.val]

/-! ### Invariants -/

/-- The state right after CONSTRUCT, and after any LOAD that fits, meets the invariant, at any legal parameters. -/
def Obligations.ResetMeetsInvariant : Prop :=
  State.reset.Inv hwParams ∧
  ∀ (c : Config) (s : State) (rom : List Byte), c.wf = true → rom.length ≤ 0x1000 - c.programStart.toNat →
    (construct c s).Inv c ∧ (load c rom s).1.Inv c

/-- Every STEP keeps the invariant: memory stays canonical and its reserved area, the font with it, stays as at
reset; SP stays within the stack; PC and every stack entry stay where no 16-bit sum wraps; a fault is recorded
exactly in Halted. -/
def Obligations.StepKeepsInvariant : Prop :=
  ∀ s t : State, s.Inv hwParams → step s = .next t → t.Inv hwParams

/-- At every legal choice of the parameters, every transaction of the host keeps the invariant and never stops the
model. -/
def Obligations.EveryTransactionKeepsInvariant : Prop :=
  ∀ (c : Config) (tr : Transaction) (s : State), c.wf = true → s.Inv c →
    ∃ t, transactWith c tr s = .next t ∧ t.Inv c

/-- From reset, every sequence of transactions the host may issue, in any order, runs to its end: the model stops at
none, and the invariant holds after it. -/
def Obligations.EveryTransactionSequenceRuns : Prop :=
  ∀ ts : List Transaction, ∃ t, runTransactions ts State.reset = .next t ∧ t.Inv hwParams
end

