-- ==== Sys2Proof/Laws/Memory.lean ====
section
/-! SUPPORT. The laws of memory: a read after a write, and that every memory operation keeps the canonical form
(20_memory.md R65, 00_scope.md R11). -/

namespace Sys2Proof.Machine

/-! ### One byte -/

/-- Below its first address a canonical memory lists nothing. -/
theorem Memory.read_of_lt_wfFrom {c : Config} {m : Memory} {lo a : Nat} (h : Memory.wfFrom c lo m = true)
    (ha : a < lo) : Memory.read c m a = initByte c a := by
  induction m generalizing lo with
  | nil => rfl
  | cons cell rest ih =>
    obtain ⟨k, v⟩ := cell
    simp only [Memory.wfFrom, Bool.and_eq_true, decide_eq_true_eq] at h
    rw [Memory.read, if_neg (by omega)]
    exact ih h.2 (by omega)

theorem Memory.read_cell (c : Config) (a b : Nat) (v : Byte) (rest : Memory)
    (h : Memory.read c rest a = initByte c a) :
    Memory.read c (Memory.cell c a v rest) b = if b = a then v else Memory.read c rest b := by
  unfold Memory.cell
  split
  case isTrue hv => split <;> simp_all
  case isFalse hv => simp [Memory.read]

theorem Memory.read_write {c : Config} {m : Memory} {lo : Nat} (h : Memory.wfFrom c lo m = true) (a b : Nat)
    (v : Byte) : Memory.read c (Memory.write c m a v) b = if b = a then v else Memory.read c m b := by
  induction m generalizing lo with
  | nil => exact Memory.read_cell c a b v [] rfl
  | cons cell rest ih =>
    obtain ⟨k, w⟩ := cell
    have hh := h
    simp only [Memory.wfFrom, Bool.and_eq_true, decide_eq_true_eq] at h
    simp only [Memory.write]
    split
    case isTrue hlt =>
      refine Memory.read_cell c a b v _ ?_
      rw [Memory.read, if_neg (by omega)]
      exact Memory.read_of_lt_wfFrom h.2 (by omega)
    case isFalse hlt =>
      split
      case isTrue heq =>
        subst heq
        rw [Memory.read_cell c a b v rest (Memory.read_of_lt_wfFrom h.2 (by omega)), Memory.read]
        split <;> simp_all
      case isFalse hne =>
        simp only [Memory.read, ih h.2]
        split <;> split <;> simp_all

/-- A read after a write to the same place gives the value written. -/
theorem Memory.read_write_same {c : Config} {m : Memory} (h : Memory.wf c m = true) (a : Nat) (v : Byte) :
    Memory.read c (Memory.write c m a v) a = v := by
  rw [Memory.read_write h, if_pos rfl]

/-- A write leaves every other place alone. -/
theorem Memory.read_write_of_ne {c : Config} {m : Memory} (h : Memory.wf c m = true) {a b : Nat} (v : Byte)
    (hne : b ≠ a) : Memory.read c (Memory.write c m a v) b = Memory.read c m b := by
  rw [Memory.read_write h, if_neg hne]

theorem Memory.wfFrom_mono {c : Config} {m : Memory} {lo lo' : Nat} (h : Memory.wfFrom c lo m = true)
    (hle : lo' ≤ lo) : Memory.wfFrom c lo' m = true := by
  cases m with
  | nil => rfl
  | cons cell rest =>
    obtain ⟨k, w⟩ := cell
    simp only [Memory.wfFrom, Bool.and_eq_true, decide_eq_true_eq] at h ⊢
    exact ⟨⟨⟨by omega, h.1.1.2⟩, h.1.2⟩, h.2⟩

theorem Memory.wfFrom_cell {c : Config} {rest : Memory} {lo a : Nat} (v : Byte)
    (h : Memory.wfFrom c (a + 1) rest = true) (hlo : lo ≤ a) (ha : a < memSize) :
    Memory.wfFrom c lo (Memory.cell c a v rest) = true := by
  unfold Memory.cell
  split
  case isTrue hv => exact Memory.wfFrom_mono h (by omega)
  case isFalse hv => simp [Memory.wfFrom, hlo, ha, hv, h]

theorem Memory.wfFrom_write {c : Config} {m : Memory} {lo a : Nat} (v : Byte)
    (h : Memory.wfFrom c lo m = true) (hlo : lo ≤ a) (ha : a < memSize) :
    Memory.wfFrom c lo (Memory.write c m a v) = true := by
  induction m generalizing lo with
  | nil => exact Memory.wfFrom_cell v rfl hlo ha
  | cons cell rest ih =>
    obtain ⟨k, w⟩ := cell
    simp only [Memory.wfFrom, Bool.and_eq_true, decide_eq_true_eq] at h
    simp only [Memory.write]
    split
    case isTrue hlt =>
      refine Memory.wfFrom_cell v ?_ hlo ha
      simp only [Memory.wfFrom, Bool.and_eq_true, decide_eq_true_eq]
      exact ⟨⟨⟨by omega, h.1.1.2⟩, h.1.2⟩, h.2⟩
    case isFalse hlt =>
      split
      case isTrue heq => subst heq; exact Memory.wfFrom_cell v h.2 hlo ha
      case isFalse hne =>
        simp only [Memory.wfFrom, Bool.and_eq_true, decide_eq_true_eq]
        exact ⟨h.1, ih h.2 (by omega)⟩

/-- A write inside memory keeps the canonical form. -/
theorem Memory.wf_write {c : Config} {m : Memory} {a : Nat} (v : Byte) (h : Memory.wf c m = true)
    (ha : a < memSize) : Memory.wf c (Memory.write c m a v) = true :=
  Memory.wfFrom_write v h (Nat.zero_le a) ha

/-! ### Several bytes -/

/-- A multi-byte write inside memory keeps the canonical form. -/
theorem Memory.wf_writeBytes {c : Config} {m : Memory} {a : Nat} (bs : List Byte) (h : Memory.wf c m = true)
    (ha : a + bs.length ≤ memSize) : Memory.wf c (Memory.writeBytes c m a bs) = true := by
  induction bs generalizing a with
  | nil => exact h
  | cons b bs ih =>
    simp only [List.length_cons] at ha
    exact Memory.wf_write b (ih (by omega)) (by omega)

/-- What every byte reads as after a multi-byte write inside memory. -/
theorem Memory.read_writeBytes {c : Config} {m : Memory} {a : Nat} (bs : List Byte) (h : Memory.wf c m = true)
    (ha : a + bs.length ≤ memSize) (k : Nat) :
    Memory.read c (Memory.writeBytes c m a bs) k =
      if a ≤ k ∧ k < a + bs.length then bs.getD (k - a) 0 else Memory.read c m k := by
  induction bs generalizing a with
  | nil => rw [if_neg (by simp)]; rfl
  | cons b bs ih =>
    simp only [List.length_cons] at ha ⊢
    rw [Memory.writeBytes, Memory.read_write (Memory.wf_writeBytes bs h (by omega)), ih (by omega)]
    by_cases hk : k = a
    · subst hk; simp
    · rw [if_neg hk]
      by_cases hin : a + 1 ≤ k ∧ k < a + 1 + bs.length
      · rw [if_pos hin, if_pos (by omega), show k - a = (k - (a + 1)) + 1 by omega, List.getD_cons_succ]
      · rw [if_neg hin, if_neg (by omega)]

@[simp] theorem Memory.readBytes_length (c : Config) (m : Memory) (a n : Nat) :
    (Memory.readBytes c m a n).length = n := by
  simp [Memory.readBytes]

theorem Memory.readBytes_getElem (c : Config) (m : Memory) (a n j : Nat) (h : j < (Memory.readBytes c m a n).length) :
    (Memory.readBytes c m a n)[j] = Memory.read c m (a + j) := by
  simp [Memory.readBytes]

/-- Reset memory lists nothing and is canonical. -/
theorem Memory.wf_reset : Memory.wf hwParams State.reset.mem = true := rfl

end Sys2Proof.Machine
end

