-- ==== Sys2Proof/Laws/State.lean ====
section
/-! SUPPORT. One lemma for each field under each update of the state, true by rfl, and the register file's
read-after-write laws. No later proof unfolds a record update. -/

namespace Sys2Proof.Machine

/-! ### setV -/

@[simp] theorem State.setV_v (s : State) (r : Reg) (b : Byte) : (s.setV r b).v = s.v.set r.val b := rfl
@[simp] theorem State.setV_i (s : State) (r : Reg) (b : Byte) : (s.setV r b).i = s.i := rfl
@[simp] theorem State.setV_pc (s : State) (r : Reg) (b : Byte) : (s.setV r b).pc = s.pc := rfl
@[simp] theorem State.setV_sp (s : State) (r : Reg) (b : Byte) : (s.setV r b).sp = s.sp := rfl
@[simp] theorem State.setV_stack (s : State) (r : Reg) (b : Byte) : (s.setV r b).stack = s.stack := rfl
@[simp] theorem State.setV_dt (s : State) (r : Reg) (b : Byte) : (s.setV r b).dt = s.dt := rfl
@[simp] theorem State.setV_st (s : State) (r : Reg) (b : Byte) : (s.setV r b).st = s.st := rfl
@[simp] theorem State.setV_disp (s : State) (r : Reg) (b : Byte) : (s.setV r b).disp = s.disp := rfl
@[simp] theorem State.setV_key (s : State) (r : Reg) (b : Byte) : (s.setV r b).key = s.key := rfl
@[simp] theorem State.setV_runState (s : State) (r : Reg) (b : Byte) : (s.setV r b).runState = s.runState := rfl
@[simp] theorem State.setV_waitX (s : State) (r : Reg) (b : Byte) : (s.setV r b).waitX = s.waitX := rfl
@[simp] theorem State.setV_keyPrev (s : State) (r : Reg) (b : Byte) : (s.setV r b).keyPrev = s.keyPrev := rfl
@[simp] theorem State.setV_faultKind (s : State) (r : Reg) (b : Byte) : (s.setV r b).faultKind = s.faultKind := rfl
@[simp] theorem State.setV_faultPc (s : State) (r : Reg) (b : Byte) : (s.setV r b).faultPc = s.faultPc := rfl
@[simp] theorem State.setV_faultOp (s : State) (r : Reg) (b : Byte) : (s.setV r b).faultOp = s.faultOp := rfl
@[simp] theorem State.setV_faultAddr (s : State) (r : Reg) (b : Byte) : (s.setV r b).faultAddr = s.faultAddr := rfl
@[simp] theorem State.setV_mem (s : State) (r : Reg) (b : Byte) : (s.setV r b).mem = s.mem := rfl
@[simp] theorem State.setV_draws (s : State) (r : Reg) (b : Byte) : (s.setV r b).draws = s.draws := rfl

/-! ### advance -/

@[simp] theorem State.advance_v (s : State) : (s.advance).v = s.v := rfl
@[simp] theorem State.advance_i (s : State) : (s.advance).i = s.i := rfl
@[simp] theorem State.advance_pc (s : State) : (s.advance).pc = s.pc + 2 := rfl
@[simp] theorem State.advance_sp (s : State) : (s.advance).sp = s.sp := rfl
@[simp] theorem State.advance_stack (s : State) : (s.advance).stack = s.stack := rfl
@[simp] theorem State.advance_dt (s : State) : (s.advance).dt = s.dt := rfl
@[simp] theorem State.advance_st (s : State) : (s.advance).st = s.st := rfl
@[simp] theorem State.advance_disp (s : State) : (s.advance).disp = s.disp := rfl
@[simp] theorem State.advance_key (s : State) : (s.advance).key = s.key := rfl
@[simp] theorem State.advance_runState (s : State) : (s.advance).runState = s.runState := rfl
@[simp] theorem State.advance_waitX (s : State) : (s.advance).waitX = s.waitX := rfl
@[simp] theorem State.advance_keyPrev (s : State) : (s.advance).keyPrev = s.keyPrev := rfl
@[simp] theorem State.advance_faultKind (s : State) : (s.advance).faultKind = s.faultKind := rfl
@[simp] theorem State.advance_faultPc (s : State) : (s.advance).faultPc = s.faultPc := rfl
@[simp] theorem State.advance_faultOp (s : State) : (s.advance).faultOp = s.faultOp := rfl
@[simp] theorem State.advance_faultAddr (s : State) : (s.advance).faultAddr = s.faultAddr := rfl
@[simp] theorem State.advance_mem (s : State) : (s.advance).mem = s.mem := rfl
@[simp] theorem State.advance_draws (s : State) : (s.advance).draws = s.draws := rfl

/-! ### takeFault -/

@[simp] theorem State.takeFault_v (s : State) (k : FaultKind) (pc op a : Word) : (s.takeFault k pc op a).v = s.v := rfl
@[simp] theorem State.takeFault_i (s : State) (k : FaultKind) (pc op a : Word) : (s.takeFault k pc op a).i = s.i := rfl
@[simp] theorem State.takeFault_pc (s : State) (k : FaultKind) (pc op a : Word) : (s.takeFault k pc op a).pc = s.pc := rfl
@[simp] theorem State.takeFault_sp (s : State) (k : FaultKind) (pc op a : Word) : (s.takeFault k pc op a).sp = s.sp := rfl
@[simp] theorem State.takeFault_stack (s : State) (k : FaultKind) (pc op a : Word) : (s.takeFault k pc op a).stack = s.stack := rfl
@[simp] theorem State.takeFault_dt (s : State) (k : FaultKind) (pc op a : Word) : (s.takeFault k pc op a).dt = s.dt := rfl
@[simp] theorem State.takeFault_st (s : State) (k : FaultKind) (pc op a : Word) : (s.takeFault k pc op a).st = s.st := rfl
@[simp] theorem State.takeFault_disp (s : State) (k : FaultKind) (pc op a : Word) : (s.takeFault k pc op a).disp = s.disp := rfl
@[simp] theorem State.takeFault_key (s : State) (k : FaultKind) (pc op a : Word) : (s.takeFault k pc op a).key = s.key := rfl
@[simp] theorem State.takeFault_runState (s : State) (k : FaultKind) (pc op a : Word) : (s.takeFault k pc op a).runState = .halted := rfl
@[simp] theorem State.takeFault_waitX (s : State) (k : FaultKind) (pc op a : Word) : (s.takeFault k pc op a).waitX = s.waitX := rfl
@[simp] theorem State.takeFault_keyPrev (s : State) (k : FaultKind) (pc op a : Word) : (s.takeFault k pc op a).keyPrev = s.keyPrev := rfl
@[simp] theorem State.takeFault_faultKind (s : State) (k : FaultKind) (pc op a : Word) : (s.takeFault k pc op a).faultKind = k := rfl
@[simp] theorem State.takeFault_faultPc (s : State) (k : FaultKind) (pc op a : Word) : (s.takeFault k pc op a).faultPc = pc := rfl
@[simp] theorem State.takeFault_faultOp (s : State) (k : FaultKind) (pc op a : Word) : (s.takeFault k pc op a).faultOp = op := rfl
@[simp] theorem State.takeFault_faultAddr (s : State) (k : FaultKind) (pc op a : Word) : (s.takeFault k pc op a).faultAddr = a := rfl
@[simp] theorem State.takeFault_mem (s : State) (k : FaultKind) (pc op a : Word) : (s.takeFault k pc op a).mem = s.mem := rfl
@[simp] theorem State.takeFault_draws (s : State) (k : FaultKind) (pc op a : Word) : (s.takeFault k pc op a).draws = s.draws := rfl

/-! ### raise -/

@[simp] theorem State.raise_v (s : State) (k : FaultKind) (j : Instr) (a : Word) : (s.raise k j a).v = s.v := rfl
@[simp] theorem State.raise_i (s : State) (k : FaultKind) (j : Instr) (a : Word) : (s.raise k j a).i = s.i := rfl
@[simp] theorem State.raise_pc (s : State) (k : FaultKind) (j : Instr) (a : Word) : (s.raise k j a).pc = s.pc := rfl
@[simp] theorem State.raise_sp (s : State) (k : FaultKind) (j : Instr) (a : Word) : (s.raise k j a).sp = s.sp := rfl
@[simp] theorem State.raise_stack (s : State) (k : FaultKind) (j : Instr) (a : Word) : (s.raise k j a).stack = s.stack := rfl
@[simp] theorem State.raise_dt (s : State) (k : FaultKind) (j : Instr) (a : Word) : (s.raise k j a).dt = s.dt := rfl
@[simp] theorem State.raise_st (s : State) (k : FaultKind) (j : Instr) (a : Word) : (s.raise k j a).st = s.st := rfl
@[simp] theorem State.raise_disp (s : State) (k : FaultKind) (j : Instr) (a : Word) : (s.raise k j a).disp = s.disp := rfl
@[simp] theorem State.raise_key (s : State) (k : FaultKind) (j : Instr) (a : Word) : (s.raise k j a).key = s.key := rfl
@[simp] theorem State.raise_runState (s : State) (k : FaultKind) (j : Instr) (a : Word) : (s.raise k j a).runState = .halted := rfl
@[simp] theorem State.raise_waitX (s : State) (k : FaultKind) (j : Instr) (a : Word) : (s.raise k j a).waitX = s.waitX := rfl
@[simp] theorem State.raise_keyPrev (s : State) (k : FaultKind) (j : Instr) (a : Word) : (s.raise k j a).keyPrev = s.keyPrev := rfl
@[simp] theorem State.raise_faultKind (s : State) (k : FaultKind) (j : Instr) (a : Word) : (s.raise k j a).faultKind = k := rfl
@[simp] theorem State.raise_faultPc (s : State) (k : FaultKind) (j : Instr) (a : Word) : (s.raise k j a).faultPc = s.pc - 2 := rfl
@[simp] theorem State.raise_faultOp (s : State) (k : FaultKind) (j : Instr) (a : Word) : (s.raise k j a).faultOp = encode j := rfl
@[simp] theorem State.raise_faultAddr (s : State) (k : FaultKind) (j : Instr) (a : Word) : (s.raise k j a).faultAddr = a := rfl
@[simp] theorem State.raise_mem (s : State) (k : FaultKind) (j : Instr) (a : Word) : (s.raise k j a).mem = s.mem := rfl
@[simp] theorem State.raise_draws (s : State) (k : FaultKind) (j : Instr) (a : Word) : (s.raise k j a).draws = s.draws := rfl

/-! ### setResultFlag -/

@[simp] theorem State.setResultFlag_v (s : State) (r : Reg) (b f : Byte) : (s.setResultFlag r b f).v = (s.v.set r.val b).set 15 f := rfl
@[simp] theorem State.setResultFlag_i (s : State) (r : Reg) (b f : Byte) : (s.setResultFlag r b f).i = s.i := rfl
@[simp] theorem State.setResultFlag_pc (s : State) (r : Reg) (b f : Byte) : (s.setResultFlag r b f).pc = s.pc := rfl
@[simp] theorem State.setResultFlag_sp (s : State) (r : Reg) (b f : Byte) : (s.setResultFlag r b f).sp = s.sp := rfl
@[simp] theorem State.setResultFlag_stack (s : State) (r : Reg) (b f : Byte) : (s.setResultFlag r b f).stack = s.stack := rfl
@[simp] theorem State.setResultFlag_dt (s : State) (r : Reg) (b f : Byte) : (s.setResultFlag r b f).dt = s.dt := rfl
@[simp] theorem State.setResultFlag_st (s : State) (r : Reg) (b f : Byte) : (s.setResultFlag r b f).st = s.st := rfl
@[simp] theorem State.setResultFlag_disp (s : State) (r : Reg) (b f : Byte) : (s.setResultFlag r b f).disp = s.disp := rfl
@[simp] theorem State.setResultFlag_key (s : State) (r : Reg) (b f : Byte) : (s.setResultFlag r b f).key = s.key := rfl
@[simp] theorem State.setResultFlag_runState (s : State) (r : Reg) (b f : Byte) : (s.setResultFlag r b f).runState = s.runState := rfl
@[simp] theorem State.setResultFlag_waitX (s : State) (r : Reg) (b f : Byte) : (s.setResultFlag r b f).waitX = s.waitX := rfl
@[simp] theorem State.setResultFlag_keyPrev (s : State) (r : Reg) (b f : Byte) : (s.setResultFlag r b f).keyPrev = s.keyPrev := rfl
@[simp] theorem State.setResultFlag_faultKind (s : State) (r : Reg) (b f : Byte) : (s.setResultFlag r b f).faultKind = s.faultKind := rfl
@[simp] theorem State.setResultFlag_faultPc (s : State) (r : Reg) (b f : Byte) : (s.setResultFlag r b f).faultPc = s.faultPc := rfl
@[simp] theorem State.setResultFlag_faultOp (s : State) (r : Reg) (b f : Byte) : (s.setResultFlag r b f).faultOp = s.faultOp := rfl
@[simp] theorem State.setResultFlag_faultAddr (s : State) (r : Reg) (b f : Byte) : (s.setResultFlag r b f).faultAddr = s.faultAddr := rfl
@[simp] theorem State.setResultFlag_mem (s : State) (r : Reg) (b f : Byte) : (s.setResultFlag r b f).mem = s.mem := rfl
@[simp] theorem State.setResultFlag_draws (s : State) (r : Reg) (b f : Byte) : (s.setResultFlag r b f).draws = s.draws := rfl

/-! ### loadRegs -/

@[simp] theorem State.loadRegs_v (s : State) (c : Config) (a : Nat) (r : Reg) : (s.loadRegs c a r).v = Vector.ofFn fun j => if j ≤ r then Memory.read c s.mem (a + j.val) else s.v[j.val] := rfl
@[simp] theorem State.loadRegs_i (s : State) (c : Config) (a : Nat) (r : Reg) : (s.loadRegs c a r).i = s.i := rfl
@[simp] theorem State.loadRegs_pc (s : State) (c : Config) (a : Nat) (r : Reg) : (s.loadRegs c a r).pc = s.pc := rfl
@[simp] theorem State.loadRegs_sp (s : State) (c : Config) (a : Nat) (r : Reg) : (s.loadRegs c a r).sp = s.sp := rfl
@[simp] theorem State.loadRegs_stack (s : State) (c : Config) (a : Nat) (r : Reg) : (s.loadRegs c a r).stack = s.stack := rfl
@[simp] theorem State.loadRegs_dt (s : State) (c : Config) (a : Nat) (r : Reg) : (s.loadRegs c a r).dt = s.dt := rfl
@[simp] theorem State.loadRegs_st (s : State) (c : Config) (a : Nat) (r : Reg) : (s.loadRegs c a r).st = s.st := rfl
@[simp] theorem State.loadRegs_disp (s : State) (c : Config) (a : Nat) (r : Reg) : (s.loadRegs c a r).disp = s.disp := rfl
@[simp] theorem State.loadRegs_key (s : State) (c : Config) (a : Nat) (r : Reg) : (s.loadRegs c a r).key = s.key := rfl
@[simp] theorem State.loadRegs_runState (s : State) (c : Config) (a : Nat) (r : Reg) : (s.loadRegs c a r).runState = s.runState := rfl
@[simp] theorem State.loadRegs_waitX (s : State) (c : Config) (a : Nat) (r : Reg) : (s.loadRegs c a r).waitX = s.waitX := rfl
@[simp] theorem State.loadRegs_keyPrev (s : State) (c : Config) (a : Nat) (r : Reg) : (s.loadRegs c a r).keyPrev = s.keyPrev := rfl
@[simp] theorem State.loadRegs_faultKind (s : State) (c : Config) (a : Nat) (r : Reg) : (s.loadRegs c a r).faultKind = s.faultKind := rfl
@[simp] theorem State.loadRegs_faultPc (s : State) (c : Config) (a : Nat) (r : Reg) : (s.loadRegs c a r).faultPc = s.faultPc := rfl
@[simp] theorem State.loadRegs_faultOp (s : State) (c : Config) (a : Nat) (r : Reg) : (s.loadRegs c a r).faultOp = s.faultOp := rfl
@[simp] theorem State.loadRegs_faultAddr (s : State) (c : Config) (a : Nat) (r : Reg) : (s.loadRegs c a r).faultAddr = s.faultAddr := rfl
@[simp] theorem State.loadRegs_mem (s : State) (c : Config) (a : Nat) (r : Reg) : (s.loadRegs c a r).mem = s.mem := rfl
@[simp] theorem State.loadRegs_draws (s : State) (c : Config) (a : Nat) (r : Reg) : (s.loadRegs c a r).draws = s.draws := rfl

/-! ### rndOfDraw -/

@[simp] theorem State.rndOfDraw_v (s : State) (d kk : Byte) (r : Reg) : (rndOfDraw d r kk s).v = s.v.set r.val (d &&& kk) := rfl
@[simp] theorem State.rndOfDraw_i (s : State) (d kk : Byte) (r : Reg) : (rndOfDraw d r kk s).i = s.i := rfl
@[simp] theorem State.rndOfDraw_pc (s : State) (d kk : Byte) (r : Reg) : (rndOfDraw d r kk s).pc = s.pc := rfl
@[simp] theorem State.rndOfDraw_sp (s : State) (d kk : Byte) (r : Reg) : (rndOfDraw d r kk s).sp = s.sp := rfl
@[simp] theorem State.rndOfDraw_stack (s : State) (d kk : Byte) (r : Reg) : (rndOfDraw d r kk s).stack = s.stack := rfl
@[simp] theorem State.rndOfDraw_dt (s : State) (d kk : Byte) (r : Reg) : (rndOfDraw d r kk s).dt = s.dt := rfl
@[simp] theorem State.rndOfDraw_st (s : State) (d kk : Byte) (r : Reg) : (rndOfDraw d r kk s).st = s.st := rfl
@[simp] theorem State.rndOfDraw_disp (s : State) (d kk : Byte) (r : Reg) : (rndOfDraw d r kk s).disp = s.disp := rfl
@[simp] theorem State.rndOfDraw_key (s : State) (d kk : Byte) (r : Reg) : (rndOfDraw d r kk s).key = s.key := rfl
@[simp] theorem State.rndOfDraw_runState (s : State) (d kk : Byte) (r : Reg) : (rndOfDraw d r kk s).runState = s.runState := rfl
@[simp] theorem State.rndOfDraw_waitX (s : State) (d kk : Byte) (r : Reg) : (rndOfDraw d r kk s).waitX = s.waitX := rfl
@[simp] theorem State.rndOfDraw_keyPrev (s : State) (d kk : Byte) (r : Reg) : (rndOfDraw d r kk s).keyPrev = s.keyPrev := rfl
@[simp] theorem State.rndOfDraw_faultKind (s : State) (d kk : Byte) (r : Reg) : (rndOfDraw d r kk s).faultKind = s.faultKind := rfl
@[simp] theorem State.rndOfDraw_faultPc (s : State) (d kk : Byte) (r : Reg) : (rndOfDraw d r kk s).faultPc = s.faultPc := rfl
@[simp] theorem State.rndOfDraw_faultOp (s : State) (d kk : Byte) (r : Reg) : (rndOfDraw d r kk s).faultOp = s.faultOp := rfl
@[simp] theorem State.rndOfDraw_faultAddr (s : State) (d kk : Byte) (r : Reg) : (rndOfDraw d r kk s).faultAddr = s.faultAddr := rfl
@[simp] theorem State.rndOfDraw_mem (s : State) (d kk : Byte) (r : Reg) : (rndOfDraw d r kk s).mem = s.mem := rfl
@[simp] theorem State.rndOfDraw_draws (s : State) (d kk : Byte) (r : Reg) : (rndOfDraw d r kk s).draws = s.draws + 1 := rfl

/-! ### tick -/

@[simp] theorem State.tick_v (s : State) : (tick s).v = s.v := rfl
@[simp] theorem State.tick_i (s : State) : (tick s).i = s.i := rfl
@[simp] theorem State.tick_pc (s : State) : (tick s).pc = s.pc := rfl
@[simp] theorem State.tick_sp (s : State) : (tick s).sp = s.sp := rfl
@[simp] theorem State.tick_stack (s : State) : (tick s).stack = s.stack := rfl
@[simp] theorem State.tick_dt (s : State) : (tick s).dt = countDown s.dt := rfl
@[simp] theorem State.tick_st (s : State) : (tick s).st = countDown s.st := rfl
@[simp] theorem State.tick_disp (s : State) : (tick s).disp = s.disp := rfl
@[simp] theorem State.tick_key (s : State) : (tick s).key = s.key := rfl
@[simp] theorem State.tick_runState (s : State) : (tick s).runState = s.runState := rfl
@[simp] theorem State.tick_waitX (s : State) : (tick s).waitX = s.waitX := rfl
@[simp] theorem State.tick_keyPrev (s : State) : (tick s).keyPrev = s.keyPrev := rfl
@[simp] theorem State.tick_faultKind (s : State) : (tick s).faultKind = s.faultKind := rfl
@[simp] theorem State.tick_faultPc (s : State) : (tick s).faultPc = s.faultPc := rfl
@[simp] theorem State.tick_faultOp (s : State) : (tick s).faultOp = s.faultOp := rfl
@[simp] theorem State.tick_faultAddr (s : State) : (tick s).faultAddr = s.faultAddr := rfl
@[simp] theorem State.tick_mem (s : State) : (tick s).mem = s.mem := rfl
@[simp] theorem State.tick_draws (s : State) : (tick s).draws = s.draws := rfl

/-! ### setKey -/

@[simp] theorem State.setKey_v (s : State) (k : Key) (p : Bool) : (setKey k p s).v = s.v := rfl
@[simp] theorem State.setKey_i (s : State) (k : Key) (p : Bool) : (setKey k p s).i = s.i := rfl
@[simp] theorem State.setKey_pc (s : State) (k : Key) (p : Bool) : (setKey k p s).pc = s.pc := rfl
@[simp] theorem State.setKey_sp (s : State) (k : Key) (p : Bool) : (setKey k p s).sp = s.sp := rfl
@[simp] theorem State.setKey_stack (s : State) (k : Key) (p : Bool) : (setKey k p s).stack = s.stack := rfl
@[simp] theorem State.setKey_dt (s : State) (k : Key) (p : Bool) : (setKey k p s).dt = s.dt := rfl
@[simp] theorem State.setKey_st (s : State) (k : Key) (p : Bool) : (setKey k p s).st = s.st := rfl
@[simp] theorem State.setKey_disp (s : State) (k : Key) (p : Bool) : (setKey k p s).disp = s.disp := rfl
@[simp] theorem State.setKey_key (s : State) (k : Key) (p : Bool) : (setKey k p s).key = s.key.set k.val p := rfl
@[simp] theorem State.setKey_runState (s : State) (k : Key) (p : Bool) : (setKey k p s).runState = s.runState := rfl
@[simp] theorem State.setKey_waitX (s : State) (k : Key) (p : Bool) : (setKey k p s).waitX = s.waitX := rfl
@[simp] theorem State.setKey_keyPrev (s : State) (k : Key) (p : Bool) : (setKey k p s).keyPrev = s.keyPrev := rfl
@[simp] theorem State.setKey_faultKind (s : State) (k : Key) (p : Bool) : (setKey k p s).faultKind = s.faultKind := rfl
@[simp] theorem State.setKey_faultPc (s : State) (k : Key) (p : Bool) : (setKey k p s).faultPc = s.faultPc := rfl
@[simp] theorem State.setKey_faultOp (s : State) (k : Key) (p : Bool) : (setKey k p s).faultOp = s.faultOp := rfl
@[simp] theorem State.setKey_faultAddr (s : State) (k : Key) (p : Bool) : (setKey k p s).faultAddr = s.faultAddr := rfl
@[simp] theorem State.setKey_mem (s : State) (k : Key) (p : Bool) : (setKey k p s).mem = s.mem := rfl
@[simp] theorem State.setKey_draws (s : State) (k : Key) (p : Bool) : (setKey k p s).draws = s.draws := rfl

/-! ### loaded -/

@[simp] theorem State.loaded_v (s : State) (c : Config) (rom : List Byte) : (s.loaded c rom).v = Vector.replicate 16 0 := rfl
@[simp] theorem State.loaded_i (s : State) (c : Config) (rom : List Byte) : (s.loaded c rom).i = 0 := rfl
@[simp] theorem State.loaded_pc (s : State) (c : Config) (rom : List Byte) : (s.loaded c rom).pc = c.programStart := rfl
@[simp] theorem State.loaded_sp (s : State) (c : Config) (rom : List Byte) : (s.loaded c rom).sp = 0 := rfl
@[simp] theorem State.loaded_stack (s : State) (c : Config) (rom : List Byte) : (s.loaded c rom).stack = Vector.replicate 16 0 := rfl
@[simp] theorem State.loaded_dt (s : State) (c : Config) (rom : List Byte) : (s.loaded c rom).dt = 0 := rfl
@[simp] theorem State.loaded_st (s : State) (c : Config) (rom : List Byte) : (s.loaded c rom).st = 0 := rfl
@[simp] theorem State.loaded_disp (s : State) (c : Config) (rom : List Byte) : (s.loaded c rom).disp = Display.clear := rfl
@[simp] theorem State.loaded_key (s : State) (c : Config) (rom : List Byte) : (s.loaded c rom).key = s.key := rfl
@[simp] theorem State.loaded_runState (s : State) (c : Config) (rom : List Byte) : (s.loaded c rom).runState = .running := rfl
@[simp] theorem State.loaded_waitX (s : State) (c : Config) (rom : List Byte) : (s.loaded c rom).waitX = 0 := rfl
@[simp] theorem State.loaded_keyPrev (s : State) (c : Config) (rom : List Byte) : (s.loaded c rom).keyPrev = Vector.replicate 16 false := rfl
@[simp] theorem State.loaded_faultKind (s : State) (c : Config) (rom : List Byte) : (s.loaded c rom).faultKind = .none := rfl
@[simp] theorem State.loaded_faultPc (s : State) (c : Config) (rom : List Byte) : (s.loaded c rom).faultPc = 0 := rfl
@[simp] theorem State.loaded_faultOp (s : State) (c : Config) (rom : List Byte) : (s.loaded c rom).faultOp = 0 := rfl
@[simp] theorem State.loaded_faultAddr (s : State) (c : Config) (rom : List Byte) : (s.loaded c rom).faultAddr = 0 := rfl
@[simp] theorem State.loaded_mem (s : State) (c : Config) (rom : List Byte) : (s.loaded c rom).mem = Memory.writeBytes c [] c.programStart.toNat rom := rfl
@[simp] theorem State.loaded_draws (s : State) (c : Config) (rom : List Byte) : (s.loaded c rom).draws = s.draws := rfl

/-! ### The register file -/

@[simp] theorem State.getV_setV_same (s : State) (r : Reg) (b : Byte) : (s.setV r b).getV r = b := by
  simp [State.getV]

theorem State.getV_setV_of_ne (s : State) {r q : Reg} (b : Byte) (h : q ≠ r) :
    (s.setV r b).getV q = s.getV q := by
  have h' : r.val ≠ q.val := fun e => h (Fin.ext e.symm)
  simp [State.getV, h']

theorem State.getV_setV (s : State) (r q : Reg) (b : Byte) :
    (s.setV r b).getV q = if q = r then b else s.getV q := by
  split
  case isTrue h => subst h; simp
  case isFalse h => exact s.getV_setV_of_ne b h

/-- The result and the flag of an ALU instruction (41_alu.md R131). -/
theorem State.getV_setResultFlag (s : State) (x q : Reg) (b f : Byte) :
    (s.setResultFlag x b f).getV q = if q = regF then f else if q = x then b else s.getV q := by
  simp [State.setResultFlag, State.getV_setV]

theorem State.getV_loadRegs (s : State) (c : Config) (a : Nat) (x q : Reg) :
    (s.loadRegs c a x).getV q = if q ≤ x then Memory.read c s.mem (a + q.val) else s.getV q := by
  simp [State.getV]

@[simp] theorem State.getV_advance (s : State) (q : Reg) : s.advance.getV q = s.getV q := rfl

@[simp] theorem State.getV_raise (s : State) (k : FaultKind) (j : Instr) (a : Word) (q : Reg) :
    (s.raise k j a).getV q = s.getV q := rfl

@[simp] theorem State.byteAt_setV (s : State) (r : Reg) (b : Byte) (a : Nat) : (s.setV r b).byteAt a = s.byteAt a := rfl

/-! ### The skips and the key snapshot -/

theorem State.skipIf_pc (s : State) (b : Bool) : (s.skipIf b).pc = if b then s.pc + 2 else s.pc := by
  cases b <;> rfl

theorem State.skipIf_eq (s : State) (b : Bool) : s.skipIf b = { s with pc := (s.skipIf b).pc } := by
  cases b <;> rfl

theorem State.snapshotKeys_eq (c : Config) (s : State) :
    s.snapshotKeys c = { s with keyPrev := if c.keyWaitMode = .edge then s.key else s.keyPrev } := by
  unfold State.snapshotKeys; cases c.keyWaitMode <;> rfl

/-! ### This hardware's parameters -/

@[simp] theorem hwParams_programStart : hwParams.programStart = 0x200#16 := rfl
@[simp] theorem hwParams_fontBase : hwParams.fontBase = 0x050#16 := rfl
@[simp] theorem hwParams_lsIncrement : hwParams.lsIncrement = .unchanged := rfl
@[simp] theorem hwParams_shiftSrc : hwParams.shiftSrc = .vx := rfl
@[simp] theorem hwParams_logicVfReset : hwParams.logicVfReset = false := rfl
@[simp] theorem hwParams_borrowSense : hwParams.borrowSense = .underflow := rfl
@[simp] theorem hwParams_keyIndexMode : hwParams.keyIndexMode = .mask := rfl
@[simp] theorem hwParams_keyWaitMode : hwParams.keyWaitMode = .level := rfl
@[simp] theorem hwParams_alignCheck : hwParams.alignCheck = true := rfl
@[simp] theorem hwParams_guardReserved : hwParams.guardReserved = true := rfl
theorem hwParams_wf : hwParams.wf = true := by decide

end Sys2Proof.Machine
end

