-- ==== Sys2Proof/Laws/Ops.lean ====
section
/-! SUPPORT. One lemma for each shared operation, saying everything it can do: the access checks, the guarded
effect, the fetch checks, the key selection, one flipped pixel. -/

namespace Sys2Proof.Machine

/-! ### Access checks (20_memory.md R57, R58, R60) -/

theorem firstOutside_toNat (a : Word) : (firstOutside a).toNat = max a.toNat 0x1000 := by
  have hm : memSize = 4096 := rfl
  unfold firstOutside
  split
  case isTrue h => rw [Nat.max_eq_right (by omega)]; rfl
  case isFalse h => rw [Nat.max_eq_left (by omega)]

theorem checkRead_eq (a : Word) (m : Nat) :
    checkRead a m = if a.toNat + m ≤ memSize then none else some (.memoryOutOfBounds, firstOutside a) := by
  unfold checkRead
  split <;> split <;> first | rfl | omega

theorem checkWrite_eq (c : Config) (a : Word) (m : Nat) :
    checkWrite c a m =
      if memSize < a.toNat + m then some (.memoryOutOfBounds, firstOutside a)
      else if c.guardReserved ∧ a.toNat < c.programStart.toNat then some (.reservedRegion, a)
      else none := by
  unfold checkWrite checkRead
  by_cases h : memSize < a.toNat + m <;> simp only [h, if_true, if_false]

/-- When CheckWrite passes. -/
theorem checkWrite_eq_none {c : Config} {a : Word} {m : Nat} (h : checkWrite c a m = none) :
    a.toNat + m ≤ memSize ∧ (c.guardReserved = true → c.programStart.toNat ≤ a.toNat) := by
  rw [checkWrite_eq] at h
  split at h
  · exact absurd h (by simp)
  · split at h
    · exact absurd h (by simp)
    · constructor
      · omega
      · intro hg; simp_all

/-- What an instruction with access checks can do: its one effect, or its fault. -/
theorem guarded_cases {check : Option (FaultKind × Word)} {j : Instr} {s e t : State}
    (h : guarded check j s e = .next t) :
    (check = none ∧ t = e) ∨ ∃ k a, check = some (k, a) ∧ t = s.raise k j a := by
  cases check with
  | none => exact .inl ⟨rfl, by injection h with h; exact h.symm⟩
  | some f => exact .inr ⟨f.1, f.2, rfl, by injection h with h; exact h.symm⟩

/-- When the fetch checks pass (30_encoding.md R101). -/
theorem fetchCheck_eq_none_iff (c : Config) (pc : Word) :
    fetchCheck c pc = none ↔ pc.toNat ≤ 0xFFE ∧ ¬(c.alignCheck = true ∧ pc.getLsbD 0 = true) ∧
      ¬(c.guardReserved = true ∧ pc.toNat < c.programStart.toNat) := by
  unfold fetchCheck
  split
  · simp; omega
  · split
    · simp_all
    · split
      · simp_all
      · simp_all; omega

/-! ### Key selection (44_input_timers.md R197) -/

theorem sixteen_mem (k : Fin 16) : k ∈ sixteen := by revert k; decide

/-- The first index that satisfies a test is the lowest. -/
theorem sixteen_find?_eq_some_iff (p : Fin 16 → Bool) (k : Fin 16) :
    sixteen.find? p = some k ↔ p k = true ∧ ∀ j, j < k → p j = false := by
  constructor
  · intro h
    refine ⟨List.find?_some h, ?_⟩
    obtain ⟨_, as, bs, hsplit, hall⟩ := List.find?_eq_some_iff_append.mp h
    have hs : sixteen.Pairwise (· < ·) := by decide
    intro j hj
    have hmem := sixteen_mem j
    rw [hsplit] at hmem hs
    rcases List.mem_append.mp hmem with hj' | hj'
    · simpa using hall j hj'
    · have h2 := (List.pairwise_append.mp hs).2.1
      rcases List.mem_cons.mp hj' with rfl | hj''
      · exact absurd hj (lt_irrefl _)
      · exact absurd hj (not_lt.mpr (le_of_lt ((List.pairwise_cons.mp h2).1 j hj'')))
  · rintro ⟨hk, hlow⟩
    cases h : sixteen.find? p with
    | none => exact absurd hk (by simpa using List.find?_eq_none.mp h k (sixteen_mem k))
    | some q =>
      have hq := List.find?_some h
      rcases lt_trichotomy q k with hlt | heq | hgt
      · rw [hlow q hlt] at hq; exact absurd hq (by simp)
      · rw [heq]
      · obtain ⟨_, as, bs, hsplit, hall⟩ := List.find?_eq_some_iff_append.mp h
        have hs : sixteen.Pairwise (· < ·) := by decide
        have hmem := sixteen_mem k
        rw [hsplit] at hmem hs
        rcases List.mem_append.mp hmem with hj' | hj'
        · have := hall k hj'; rw [hk] at this; exact absurd this (by simp)
        · rcases List.mem_cons.mp hj' with rfl | hj''
          · rfl
          · exact absurd hgt (not_lt.mpr (le_of_lt ((List.pairwise_cons.mp (List.pairwise_append.mp hs).2.1).1 k hj'')))

theorem sixteen_find?_eq_none_iff (p : Fin 16 → Bool) : sixteen.find? p = none ↔ ∀ k, p k = false := by
  rw [List.find?_eq_none]
  exact ⟨fun h k => by simpa using h k (sixteen_mem k), fun h k _ => by simp [h k]⟩

/-! ### Counting down (60_exceptions.md R221) -/

theorem countDown_toNat (b : Byte) : (countDown b).toNat = b.toNat - 1 := by
  revert b; decide

/-! ### One pixel (43_display.md R182) -/

theorem Display.pixel_flip (d : Display) (py qy : Fin 32) (px qx : Fin 64) :
    (d.flip py px).pixel qy qx = (if qy = py ∧ qx = px then !d.pixel qy qx else d.pixel qy qx) := by
  unfold Display.flip Display.pixel
  by_cases hy : py = qy
  · subst hy
    by_cases hx : px = qx
    · subst hx; simp
    · have : px.val ≠ qx.val := fun e => hx (Fin.ext e)
      simp [this, Ne.symm hx]
  · have : py.val ≠ qy.val := fun e => hy (Fin.ext e)
    simp [this, Ne.symm hy]

@[simp] theorem Display.pixel_clear (py : Fin 32) (px : Fin 64) : Display.clear.pixel py px = false := by
  simp [Display.clear, Display.pixel]

end Sys2Proof.Machine
end

