-- ==== Sys2Proof/Laws/Words.lean ====
section
/-! SUPPORT. The fields of the three formats of 30_encoding.md R81, and big-endian byte order: what a proof about
`decodeWord (encode i)` cites instead of unfolding a bit slice. -/

namespace Sys2Proof

@[simp] theorem toFin_regBits (r : Reg) : (regBits r).toFin = r := rfl

@[simp] theorem regBits_toFin (b : Nibble) : regBits b.toFin = b := rfl

/-- A word is its four nibbles. -/
theorem word_eq_nibbles (op : Word) :
    op = (op.extractLsb' 12 4 ++ op.extractLsb' 8 4 ++ op.extractLsb' 4 4 ++ op.extractLsb' 0 4 : BitVec 16) := by
  apply BitVec.eq_of_toNat_eq
  simp only [BitVec.toNat_append, BitVec.extractLsb'_toNat, Nat.shiftRight_eq_div_pow]
  have h := op.isLt
  generalize op.toNat = w at h
  have e : ∀ a b : Nat, b < 2 ^ 4 → a <<< 4 ||| b = a * 16 + b := fun a b hb => by
    rw [← Nat.shiftLeft_add_eq_or_of_lt hb, Nat.shiftLeft_eq]
  rw [e _ _ (Nat.mod_lt _ (by decide)), e _ _ (Nat.mod_lt _ (by decide)), e _ _ (Nat.mod_lt _ (by decide))]
  omega

theorem wordNnn_toNat (f : Nibble) (nnn : Addr12) : (wordNnn f nnn).toNat = f.toNat * 4096 + nnn.toNat := by
  show (f ++ nnn : BitVec (4 + 12)).toNat = _
  rw [BitVec.toNat_append, ← Nat.shiftLeft_add_eq_or_of_lt nnn.isLt, Nat.shiftLeft_eq]

theorem wordXkk_toNat (f : Nibble) (x : Reg) (kk : Byte) :
    (wordXkk f x kk).toNat = f.toNat * 4096 + x.val * 256 + kk.toNat := by
  show (f ++ regBits x ++ kk : BitVec (4 + 4 + 8)).toNat = _
  rw [BitVec.toNat_append, BitVec.toNat_append, ← Nat.shiftLeft_add_eq_or_of_lt kk.isLt,
    ← Nat.shiftLeft_add_eq_or_of_lt (regBits x).isLt, Nat.shiftLeft_eq, Nat.shiftLeft_eq]
  show (f.toNat * 2 ^ 4 + x.val) * 2 ^ 8 + _ = _
  omega

theorem wordXyn_toNat (f : Nibble) (x y : Reg) (n : Nibble) :
    (wordXyn f x y n).toNat = f.toNat * 4096 + x.val * 256 + y.val * 16 + n.toNat := by
  show (f ++ regBits x ++ regBits y ++ n : BitVec (4 + 4 + 4 + 4)).toNat = _
  rw [BitVec.toNat_append, BitVec.toNat_append, BitVec.toNat_append, ← Nat.shiftLeft_add_eq_or_of_lt n.isLt,
    ← Nat.shiftLeft_add_eq_or_of_lt (regBits y).isLt, ← Nat.shiftLeft_add_eq_or_of_lt (regBits x).isLt,
    Nat.shiftLeft_eq, Nat.shiftLeft_eq, Nat.shiftLeft_eq]
  show ((f.toNat * 2 ^ 4 + x.val) * 2 ^ 4 + y.val) * 2 ^ 4 + _ = _
  omega

/-! ### Fields as numbers -/

theorem fieldFamily_toNat (op : Word) : (fieldFamily op).toNat = op.toNat / 4096 := by
  have := op.isLt
  simp only [fieldFamily, BitVec.extractLsb'_toNat, Nat.shiftRight_eq_div_pow]
  omega

theorem fieldX_val (op : Word) : (fieldX op).val = op.toNat / 256 % 16 := by
  show (op.extractLsb' 8 4).toNat = _
  rw [BitVec.extractLsb'_toNat, Nat.shiftRight_eq_div_pow]

theorem fieldY_val (op : Word) : (fieldY op).val = op.toNat / 16 % 16 := by
  show (op.extractLsb' 4 4).toNat = _
  rw [BitVec.extractLsb'_toNat, Nat.shiftRight_eq_div_pow]

theorem fieldN_toNat (op : Word) : (fieldN op).toNat = op.toNat % 16 := by
  rw [fieldN, BitVec.extractLsb'_toNat]; simp

theorem fieldKk_toNat (op : Word) : (fieldKk op).toNat = op.toNat % 256 := by
  rw [fieldKk, BitVec.extractLsb'_toNat]; simp

theorem fieldNnn_toNat (op : Word) : (fieldNnn op).toNat = op.toNat % 4096 := by
  rw [fieldNnn, BitVec.extractLsb'_toNat]; simp

/-! ### Fields of each format -/

@[simp] theorem fieldFamily_wordNnn (f : Nibble) (nnn : Addr12) : fieldFamily (wordNnn f nnn) = f := by
  apply BitVec.eq_of_toNat_eq; rw [fieldFamily_toNat, wordNnn_toNat]; have := nnn.isLt; omega

@[simp] theorem fieldNnn_wordNnn (f : Nibble) (nnn : Addr12) : fieldNnn (wordNnn f nnn) = nnn := by
  apply BitVec.eq_of_toNat_eq; rw [fieldNnn_toNat, wordNnn_toNat]; have := nnn.isLt; omega

@[simp] theorem fieldFamily_wordXkk (f : Nibble) (x : Reg) (kk : Byte) : fieldFamily (wordXkk f x kk) = f := by
  apply BitVec.eq_of_toNat_eq; rw [fieldFamily_toNat, wordXkk_toNat]; have := kk.isLt; have := x.isLt; omega

@[simp] theorem fieldX_wordXkk (f : Nibble) (x : Reg) (kk : Byte) : fieldX (wordXkk f x kk) = x := by
  apply Fin.ext; rw [fieldX_val, wordXkk_toNat]; have := kk.isLt; have := x.isLt; omega

@[simp] theorem fieldKk_wordXkk (f : Nibble) (x : Reg) (kk : Byte) : fieldKk (wordXkk f x kk) = kk := by
  apply BitVec.eq_of_toNat_eq; rw [fieldKk_toNat, wordXkk_toNat]; have := kk.isLt; omega

@[simp] theorem fieldFamily_wordXyn (f : Nibble) (x y : Reg) (n : Nibble) : fieldFamily (wordXyn f x y n) = f := by
  apply BitVec.eq_of_toNat_eq; rw [fieldFamily_toNat, wordXyn_toNat]
  have := n.isLt; have := x.isLt; have := y.isLt; omega

@[simp] theorem fieldX_wordXyn (f : Nibble) (x y : Reg) (n : Nibble) : fieldX (wordXyn f x y n) = x := by
  apply Fin.ext; rw [fieldX_val, wordXyn_toNat]; have := n.isLt; have := x.isLt; have := y.isLt; omega

@[simp] theorem fieldY_wordXyn (f : Nibble) (x y : Reg) (n : Nibble) : fieldY (wordXyn f x y n) = y := by
  apply Fin.ext; rw [fieldY_val, wordXyn_toNat]; have := n.isLt; have := y.isLt; omega

@[simp] theorem fieldN_wordXyn (f : Nibble) (x y : Reg) (n : Nibble) : fieldN (wordXyn f x y n) = n := by
  apply BitVec.eq_of_toNat_eq; rw [fieldN_toNat, wordXyn_toNat]; have := n.isLt; omega

/-! ### Every word is of each format -/

theorem wordNnn_fields (op : Word) : wordNnn (fieldFamily op) (fieldNnn op) = op := by
  apply BitVec.eq_of_toNat_eq; rw [wordNnn_toNat, fieldFamily_toNat, fieldNnn_toNat]; omega

theorem wordXkk_fields (op : Word) : wordXkk (fieldFamily op) (fieldX op) (fieldKk op) = op := by
  apply BitVec.eq_of_toNat_eq; rw [wordXkk_toNat, fieldFamily_toNat, fieldX_val, fieldKk_toNat]; omega

theorem wordXyn_fields (op : Word) : wordXyn (fieldFamily op) (fieldX op) (fieldY op) (fieldN op) = op := by
  apply BitVec.eq_of_toNat_eq; rw [wordXyn_toNat, fieldFamily_toNat, fieldX_val, fieldY_val, fieldN_toNat]; omega

/-! ### Byte order -/

theorem wordOfBytes_toNat (hi lo : Byte) : (wordOfBytes hi lo).toNat = hi.toNat * 256 + lo.toNat := by
  show (hi ++ lo : BitVec (8 + 8)).toNat = _
  rw [BitVec.toNat_append, ← Nat.shiftLeft_add_eq_or_of_lt lo.isLt, Nat.shiftLeft_eq]

theorem wordOfBytes_bytes (op : Word) : wordOfBytes (op.extractLsb' 8 8) (op.extractLsb' 0 8) = op := by
  apply BitVec.eq_of_toNat_eq
  have := op.isLt
  rw [wordOfBytes_toNat, BitVec.extractLsb'_toNat, BitVec.extractLsb'_toNat]
  simp only [Nat.shiftRight_eq_div_pow]
  omega

end Sys2Proof
end

