-- ==== Sys2Proof/Laws/PerInstr.lean ====
section
/-! SUPPORT. Per instruction: the word of an instruction is a word of its row of the opcode map
(30_encoding.md R90): `op &&& mask = value`. -/

namespace Sys2Proof.Laws

/-- The 12 low bits do not reach the family nibble. -/
theorem wordNnn_and_mask (f : Nibble) (nnn : Addr12) : wordNnn f nnn &&& 0xF000#16 = wordNnn f 0 := by
  show (f ++ nnn : BitVec (4 + 12)) &&& (0xF#4 ++ 0x000#12 : BitVec (4 + 12)) = (f ++ 0#12 : BitVec (4 + 12))
  rw [BitVec.and_append]
  congr 1
  · exact BitVec.and_allOnes
  · exact BitVec.and_zero

theorem wordXkk_and_family (f : Nibble) (x : Reg) (kk : Byte) : wordXkk f x kk &&& 0xF000#16 = wordNnn f 0 := by
  rw [← wordNnn_fields (wordXkk f x kk), fieldFamily_wordXkk, wordNnn_and_mask]

theorem wordXyn_and_family (f : Nibble) (x y : Reg) (n : Nibble) : wordXyn f x y n &&& 0xF000#16 = wordNnn f 0 := by
  rw [← wordNnn_fields (wordXyn f x y n), fieldFamily_wordXyn, wordNnn_and_mask]

theorem wordXkk_and_lo8 (f : Nibble) (x : Reg) (kk : Byte) : wordXkk f x kk &&& 0xF0FF#16 = wordXkk f 0 kk := by
  show (f ++ regBits x ++ kk : BitVec (4 + 4 + 8)) &&& (0xF#4 ++ 0x0#4 ++ 0xFF#8 : BitVec (4 + 4 + 8)) =
    (f ++ 0#4 ++ kk : BitVec (4 + 4 + 8))
  rw [BitVec.and_append, BitVec.and_append]
  congr 1
  · congr 1
    · exact BitVec.and_allOnes
    · exact BitVec.and_zero
  · exact BitVec.and_allOnes

theorem wordXyn_and_lo4 (f : Nibble) (x y : Reg) (n : Nibble) : wordXyn f x y n &&& 0xF00F#16 = wordXyn f 0 0 n := by
  show (f ++ regBits x ++ regBits y ++ n : BitVec (4 + 4 + 4 + 4)) &&&
    (0xF#4 ++ 0x0#4 ++ 0x0#4 ++ 0xF#4 : BitVec (4 + 4 + 4 + 4)) = (f ++ 0#4 ++ 0#4 ++ n : BitVec (4 + 4 + 4 + 4))
  rw [BitVec.and_append, BitVec.and_append, BitVec.and_append]
  congr 1
  · congr 1
    · congr 1
      · exact BitVec.and_allOnes
      · exact BitVec.and_zero
    · exact BitVec.and_zero
  · exact BitVec.and_allOnes

namespace EncodesToRow

/-- The instruction's word matches its row. -/
def Statement (i : Instr) : Prop := encode i &&& (rowOf i).mask = (rowOf i).value

theorem cls : Statement .cls := rfl
theorem ret : Statement .ret := rfl
theorem jp (nnn : Addr12) : Statement (.jp nnn) := (wordNnn_and_mask _ nnn).trans rfl
theorem call (nnn : Addr12) : Statement (.call nnn) := (wordNnn_and_mask _ nnn).trans rfl
theorem seKk (x : Reg) (kk : Byte) : Statement (.seKk x kk) := (wordXkk_and_family _ x kk).trans rfl
theorem sneKk (x : Reg) (kk : Byte) : Statement (.sneKk x kk) := (wordXkk_and_family _ x kk).trans rfl
theorem seVy (x : Reg) (y : Reg) : Statement (.seVy x y) := (wordXyn_and_lo4 _ x y _).trans rfl
theorem ldKk (x : Reg) (kk : Byte) : Statement (.ldKk x kk) := (wordXkk_and_family _ x kk).trans rfl
theorem addKk (x : Reg) (kk : Byte) : Statement (.addKk x kk) := (wordXkk_and_family _ x kk).trans rfl
theorem ldVy (x : Reg) (y : Reg) : Statement (.ldVy x y) := (wordXyn_and_lo4 _ x y _).trans rfl
theorem orVy (x : Reg) (y : Reg) : Statement (.orVy x y) := (wordXyn_and_lo4 _ x y _).trans rfl
theorem andVy (x : Reg) (y : Reg) : Statement (.andVy x y) := (wordXyn_and_lo4 _ x y _).trans rfl
theorem xorVy (x : Reg) (y : Reg) : Statement (.xorVy x y) := (wordXyn_and_lo4 _ x y _).trans rfl
theorem addVy (x : Reg) (y : Reg) : Statement (.addVy x y) := (wordXyn_and_lo4 _ x y _).trans rfl
theorem subVy (x : Reg) (y : Reg) : Statement (.subVy x y) := (wordXyn_and_lo4 _ x y _).trans rfl
theorem shrVy (x : Reg) (y : Reg) : Statement (.shrVy x y) := (wordXyn_and_lo4 _ x y _).trans rfl
theorem subnVy (x : Reg) (y : Reg) : Statement (.subnVy x y) := (wordXyn_and_lo4 _ x y _).trans rfl
theorem shlVy (x : Reg) (y : Reg) : Statement (.shlVy x y) := (wordXyn_and_lo4 _ x y _).trans rfl
theorem sneVy (x : Reg) (y : Reg) : Statement (.sneVy x y) := (wordXyn_and_lo4 _ x y _).trans rfl
theorem ldI (nnn : Addr12) : Statement (.ldI nnn) := (wordNnn_and_mask _ nnn).trans rfl
theorem jpV0 (nnn : Addr12) : Statement (.jpV0 nnn) := (wordNnn_and_mask _ nnn).trans rfl
theorem rnd (x : Reg) (kk : Byte) : Statement (.rnd x kk) := (wordXkk_and_family _ x kk).trans rfl
theorem drw (x : Reg) (y : Reg) (n : Nibble) : Statement (.drw x y n) := (wordXyn_and_family _ x y n).trans rfl
theorem skp (x : Reg) : Statement (.skp x) := (wordXkk_and_lo8 _ x _).trans rfl
theorem sknp (x : Reg) : Statement (.sknp x) := (wordXkk_and_lo8 _ x _).trans rfl
theorem ldVxDt (x : Reg) : Statement (.ldVxDt x) := (wordXkk_and_lo8 _ x _).trans rfl
theorem ldVxK (x : Reg) : Statement (.ldVxK x) := (wordXkk_and_lo8 _ x _).trans rfl
theorem ldDtVx (x : Reg) : Statement (.ldDtVx x) := (wordXkk_and_lo8 _ x _).trans rfl
theorem ldStVx (x : Reg) : Statement (.ldStVx x) := (wordXkk_and_lo8 _ x _).trans rfl
theorem addIVx (x : Reg) : Statement (.addIVx x) := (wordXkk_and_lo8 _ x _).trans rfl
theorem ldFVx (x : Reg) : Statement (.ldFVx x) := (wordXkk_and_lo8 _ x _).trans rfl
theorem ldBVx (x : Reg) : Statement (.ldBVx x) := (wordXkk_and_lo8 _ x _).trans rfl
theorem ldMemVx (x : Reg) : Statement (.ldMemVx x) := (wordXkk_and_lo8 _ x _).trans rfl
theorem ldVxMem (x : Reg) : Statement (.ldVxMem x) := (wordXkk_and_lo8 _ x _).trans rfl

end EncodesToRow

end Sys2Proof.Laws
end

