-- ==== Sys2Proof/Laws/Step.lean ====
section
/-! SUPPORT. What one STEP can do (30_encoding.md R100 to R103): the inversion every whole-machine proof starts
from, and the parameterised machine at this hardware's parameters. -/

namespace Sys2Proof.Machine

/-- What STEP can answer: nothing in Halted, a wait check in AwaitingKey, and in Running a fetch fault, an unknown
opcode, or the decoded instruction with PC advanced. -/
theorem stepBy_cases {c : Config} {run : Instr → State → Result} {s : State} {r : Result}
    (h : stepBy c run s = r) :
    (s.runState = .halted ∧ r = .next s) ∨
    (s.runState = .awaitingKey ∧ r = .next (waitStep c s)) ∨
    (s.runState = .running ∧
      ((∃ k a, fetchCheck c s.pc = some (k, a) ∧ r = .next (s.takeFault k s.pc 0 a)) ∨
       (fetchCheck c s.pc = none ∧ decodeWord (fetchWord c s.mem s.pc.toNat) = none ∧
         r = .next (s.advance.takeFault .unknownOpcode s.pc (fetchWord c s.mem s.pc.toNat) 0)) ∨
       (∃ i, fetchCheck c s.pc = none ∧ decodeWord (fetchWord c s.mem s.pc.toNat) = some i ∧
         r = run i s.advance))) := by
  subst h
  unfold stepBy
  split
  case h_1 h => exact .inl ⟨h, rfl⟩
  case h_2 h => exact .inr (.inl ⟨h, rfl⟩)
  case h_3 h =>
    refine .inr (.inr ⟨h, ?_⟩)
    unfold fetchDecodeExecute
    split
    case h_1 k a hf => exact .inl ⟨k, a, hf, rfl⟩
    case h_2 hf =>
      split
      case h_1 i hd => exact .inr (.inr ⟨i, hf, hd, rfl⟩)
      case h_2 hd => exact .inr (.inl ⟨hf, hd, rfl⟩)

/-- The parameterised instructions at this hardware's parameters are the machine's. -/
theorem execWith_hwParams (i : Instr) (s : State) : execWith hwParams i s = exec i s := by
  cases i <;> rfl

/-- The parameterised step at this hardware's parameters is the machine's. -/
theorem stepWith_hwParams (s : State) : stepWith hwParams s = step s := by
  have h : execWith hwParams = exec := by funext i s; exact execWith_hwParams i s
  unfold stepWith step
  rw [h]

theorem transactWith_hwParams (t : Transaction) (s : State) : transactWith hwParams t s = transact t s := by
  cases t <;> rfl

end Sys2Proof.Machine
end

