-- ==== Sys2Proof/Tests/Slice0.lean ====
section
/-! SUPPORT. The model's own tests. Expected values come from spec/95_test_vectors.md (the vector is named beside
each) and, for the decoder, from words written out from 30_encoding.md R90. After them, the witnesses: states and
operands that meet the hypotheses of each statement. -/

namespace Sys2Proof.Tests

-- One test at a time: the checks would otherwise start a thread each.
set_option Elab.async false

open Sys2Proof.Machine

/-! ### Helpers -/

/-- The answer is a next state that passes the check. -/
def answers (r : Result) (check : State → Bool) : Bool :=
  match r with
  | .next t => check t
  | _ => false

/-- The reset state with V registers set. -/
def withRegs (regs : List (Reg × Byte)) : State := regs.foldl (fun s p => s.setV p.1 p.2) State.reset

/-- The reset state with bytes of memory set from an address on. -/
def withBytes (a : Nat) (bytes : List Byte) (s : State) : State :=
  { s with mem := Memory.writeBytes hwParams s.mem a bytes }

/-- The reset state with keys pressed. -/
def withKeys (keys : List Key) (s : State) : State := keys.foldl (fun t k => setKey k true t) s

/-- One STEP with the word placed at PC. -/
def ran (w : Nat) (s : State) : Result := step (s.withFetchWord 16 w)

/-- One STEP with the word placed at PC, at other parameters. -/
def ranWith (c : Config) (w : Nat) (s : State) : Result := stepWith c (s.withFetchWord 16 w)

/-- The fault record, PC after, and Halted. -/
def faulted (t : State) (kind : FaultKind) (fpc fop faddr pc : Word) : Bool :=
  t.runState == .halted && t.faultKind == kind && t.faultPc == fpc && t.faultOp == fop && t.faultAddr == faddr &&
    t.pc == pc

/-- The pixels of the first list are 1 and those of the second are 0; a pixel is (row, column). -/
def lights (d : Display) (on off : List (Fin 32 × Fin 64)) : Bool :=
  on.all (fun p => d.pixel p.1 p.2) && off.all (fun p => !d.pixel p.1 p.2)

/-- A state ready to fetch the word, with SP and I set. -/
def ready (w : Nat) (sp : Byte) (i : Word) : State := { State.reset.withFetchWord 16 w with sp := sp, i := i }

/-- The pixels of glyph 0 drawn at (0, 0) (vector DP1's picture). -/
def glyph0 : List (Fin 32 × Fin 64) :=
  [(0, 0), (0, 1), (0, 2), (0, 3), (1, 0), (1, 3), (2, 0), (2, 3), (3, 0), (3, 3)] ++
  [(4, 0), (4, 1), (4, 2), (4, 3)]

/-- Pixels inside and around it that stay 0. -/
def aroundGlyph0 : List (Fin 32 × Fin 64) :=
  [(1, 1), (1, 2), (3, 1), (3, 2), (0, 4), (4, 4), (5, 0), (5, 3), (31, 0), (0, 63)]

/-! ### Well-formedness: a term that passes, and one that each check refuses -/

theorem test_hwParams_wf : hwParams.wf = true := by decide

/-- 20_memory.md R52: FONT_BASE + 80 ≤ PROGRAM_START. -/
theorem test_fontFits_refuses : Config.fontFits { hwParams with fontBase := 0x1B1 } = false ∧
    Config.wf { hwParams with fontBase := 0x1B1 } = false ∧
    Config.wf { hwParams with fontBase := 0x1B0 } = true := by decide

theorem test_programAreaFits_refuses : Config.programAreaFits { hwParams with programStart := 0x1001 } = false ∧
    Config.wf { hwParams with programStart := 0x1001 } = false ∧
    Config.wf { hwParams with programStart := 0x1000 } = true := by decide

/-- W5: 3584 bytes fit, 3585 do not. -/
theorem test_romFits_boundary : hwParams.romFits (List.replicate 3584 0x11) = true ∧
    hwParams.romFits (List.replicate 3585 0x11) = false := by decide +kernel

/-- Memory that is out of order, out of range, or lists what an unlisted address reads as, is not canonical. -/
theorem test_memory_wf_refuses : Memory.wf hwParams [(0x300, 1), (0x2FF, 1)] = false ∧
    Memory.wf hwParams [(0x300, 1), (0x300, 2)] = false ∧ Memory.wf hwParams [(0x300, 0)] = false ∧
    Memory.wf hwParams [(0x050, 0xF0)] = false ∧ Memory.wf hwParams [(0x1000, 1)] = false ∧
    Memory.wf hwParams [(0x050, 0), (0xFFF, 1)] = true := by decide

/-! ### Decoding, by words written out from R90 and R81 -/

/-- 0000 0000 1110 0000 and 0000 0000 1110 1110; 0001 and 0010 with the address 0011 0100 0010. -/
theorem test_decode_system_and_jumps : decodeTableWord 16 0x00E0 = some .cls ∧
    decodeTableWord 16 0x00EE = some .ret ∧ decodeTableWord 16 0x1342 = some (.jp 0x342) ∧
    decodeTableWord 16 0x2FFE = some (.call 0xFFE) ∧ decodeTableWord 16 0xB801 = some (.jpV0 0x801) := by decide

/-- x is bits 11 to 8, y is bits 7 to 4, kk is bits 7 to 0. -/
theorem test_decode_skips : decodeTableWord 16 0x3A2B = some (.seKk 10 0x2B) ∧
    decodeTableWord 16 0x4B3C = some (.sneKk 11 0x3C) ∧ decodeTableWord 16 0x51F0 = some (.seVy 1 15) ∧
    decodeTableWord 16 0x9E20 = some (.sneVy 14 2) := by decide

theorem test_decode_immediates : decodeTableWord 16 0x6A2B = some (.ldKk 10 0x2B) ∧
    decodeTableWord 16 0x7FF0 = some (.addKk 15 0xF0) ∧ decodeTableWord 16 0xA2F0 = some (.ldI 0x2F0) ∧
    decodeTableWord 16 0xC30F = some (.rnd 3 0x0F) := by decide

theorem test_decode_alu : decodeTableWord 16 0x81E0 = some (.ldVy 1 14) ∧
    decodeTableWord 16 0x82D1 = some (.orVy 2 13) ∧ decodeTableWord 16 0x83C2 = some (.andVy 3 12) ∧
    decodeTableWord 16 0x84B3 = some (.xorVy 4 11) ∧ decodeTableWord 16 0x85A4 = some (.addVy 5 10) ∧
    decodeTableWord 16 0x8695 = some (.subVy 6 9) ∧ decodeTableWord 16 0x8786 = some (.shrVy 7 8) ∧
    decodeTableWord 16 0x8877 = some (.subnVy 8 7) ∧ decodeTableWord 16 0x896E = some (.shlVy 9 6) := by decide

theorem test_decode_display_and_keys : decodeTableWord 16 0xD12F = some (.drw 1 2 15) ∧
    decodeTableWord 16 0xE19E = some (.skp 1) ∧ decodeTableWord 16 0xE2A1 = some (.sknp 2) := by decide

theorem test_decode_family_f : decodeTableWord 16 0xF107 = some (.ldVxDt 1) ∧
    decodeTableWord 16 0xF20A = some (.ldVxK 2) ∧ decodeTableWord 16 0xF315 = some (.ldDtVx 3) ∧
    decodeTableWord 16 0xF418 = some (.ldStVx 4) ∧ decodeTableWord 16 0xF51E = some (.addIVx 5) ∧
    decodeTableWord 16 0xF629 = some (.ldFVx 6) ∧ decodeTableWord 16 0xF733 = some (.ldBVx 7) ∧
    decodeTableWord 16 0xF855 = some (.ldMemVx 8) ∧ decodeTableWord 16 0xF965 = some (.ldVxMem 9) := by decide

/-- X1, X2, X3, CF16, CF19, A33 to A35, K7, K15, K16: illegal words, refused by name. -/
theorem test_decode_refuses : [0x0123, 0x0000, 0x00E1, 0x5121, 0x912F, 0x8018, 0x800F, 0x800D, 0xE19F, 0xF0FF, 0xF000].map
    (decodeTableWord 16) = List.replicate 11 none := by decide

theorem test_decode_names_the_error : decode [0x80, 0x18] = .error (.unknownOpcode 0x8018) ∧
    decode [0x12] = .error .truncated ∧ decode [] = .error .truncated := ⟨rfl, rfl, rfl⟩

theorem test_encode_words : encode (.drw 1 2 5) = 0xD125 ∧ encode (.shlVy 4 4) = 0x844E ∧
    encode (.ldVxMem 9) = 0xF965 ∧ encode (.jpV0 0x300) = 0xB300 ∧ encode (.sneVy 1 2) = 0x9120 := by decide

/-! ### Control transfer -/

/-- CF1, CF2. -/
theorem test_ret : answers (ran 0x00EE State.reset) (fun t => faulted t .stackUnderflow 0x200 0x00EE 0 0x202 && t.sp == 0) = true ∧
    answers (ran 0x00EE { State.reset with pc := 0x400, sp := 2, stack := (State.reset.stack.set 0 0x204).set 1 0x30A })
      (fun t => t.pc == 0x30A && t.sp == 1 && t.stack[1] == 0x30A) = true := by decide +kernel

/-- CF3 (the first STEP), CF6. -/
theorem test_jp : answers (ran 0x1FFF State.reset) (fun t => t.pc == 0xFFF) = true ∧
    answers (ran 0x1200 State.reset) (fun t => t == State.reset.withFetchWord 16 0x1200) = true := by decide +kernel

/-- CF7, CF8. -/
theorem test_call : answers (ran 0x2300 { State.reset with pc := 0x204, sp := 15 })
      (fun t => t.stack[15] == 0x206 && t.sp == 16 && t.pc == 0x300) = true ∧
    answers (ran 0x2300 { State.reset with pc := 0x204, sp := 16 })
      (fun t => faulted t .stackOverflow 0x204 0x2300 0 0x206 && t.sp == 16) = true := by decide +kernel

/-- CF9, CF10, CF26. -/
theorem test_seKk : answers (ran 0x3342 (withRegs [(3, 0x42)])) (fun t => t.pc == 0x204) = true ∧
    answers (ran 0x3343 (withRegs [(3, 0x42)])) (fun t => t.pc == 0x202) = true ∧
    answers (ran 0x3F01 (withRegs [(15, 0x01)])) (fun t => t.pc == 0x204) = true := by decide +kernel

/-- CF11, CF12. -/
theorem test_sneKk : answers (ran 0x4342 (withRegs [(3, 0x42)])) (fun t => t.pc == 0x202) = true ∧
    answers (ran 0x4300 (withRegs [(3, 0x42)])) (fun t => t.pc == 0x204) = true := by decide +kernel

/-- CF13, CF14, CF15. -/
theorem test_seVy : answers (ran 0x5120 (withRegs [(1, 7), (2, 7)])) (fun t => t.pc == 0x204) = true ∧
    answers (ran 0x5120 (withRegs [(1, 7), (2, 8)])) (fun t => t.pc == 0x202) = true ∧
    answers (ran 0x5110 (withRegs [(1, 9)])) (fun t => t.pc == 0x204) = true := by decide +kernel

/-- CF17, CF18. -/
theorem test_sneVy : answers (ran 0x9120 (withRegs [(1, 7), (2, 8)])) (fun t => t.pc == 0x204) = true ∧
    answers (ran 0x9110 (withRegs [(1, 9)])) (fun t => t.pc == 0x202) = true := by decide +kernel

/-- CF20, CF21 (the first STEP), CF23. -/
theorem test_jpV0 : answers (ran 0xB300 (withRegs [(0, 0x10)])) (fun t => t.pc == 0x310) = true ∧
    answers (ran 0xBFFF (withRegs [(0, 0x01)])) (fun t => t.pc == 0x1000) = true ∧
    answers (ran 0xBFFF (withRegs [(0, 0xFF)])) (fun t => t.pc == 0x10FE) = true := by decide +kernel

/-! ### ALU -/

/-- A1. -/
theorem test_ldKk : answers (ran 0x6A2B State.reset) (fun t => t.getV 10 == 0x2B && t.pc == 0x202) = true := by
  decide +kernel

/-- A2, A3, A4. -/
theorem test_addKk : answers (ran 0x7220 (withRegs [(2, 0xF0)])) (fun t => t.getV 2 == 0x10) = true ∧
    answers (ran 0x7001 (withRegs [(0, 0xFF), (15, 0x55)])) (fun t => t.getV 0 == 0 && t.getV 15 == 0x55) = true ∧
    answers (ran 0x7F01 (withRegs [(15, 0xFF)])) (fun t => t.getV 15 == 0) = true := by decide +kernel

/-- A5. -/
theorem test_ldVy : answers (ran 0x8010 (withRegs [(1, 0x33)])) (fun t => t.getV 0 == 0x33) = true := by
  decide +kernel

/-- A6, A6b. -/
theorem test_orVy :
    answers (ran 0x8011 (withRegs [(0, 0x0C), (1, 0x0A), (15, 1)])) (fun t => t.getV 0 == 0x0E && t.getV 15 == 1) = true ∧
    answers (ranWith { hwParams with logicVfReset := true } 0x8011 (withRegs [(0, 0x0C), (1, 0x0A), (15, 1)]))
      (fun t => t.getV 0 == 0x0E && t.getV 15 == 0) = true := by decide +kernel

/-- A7. -/
theorem test_andVy : answers (ran 0x8012 (withRegs [(0, 0x0C), (1, 0x0A)])) (fun t => t.getV 0 == 0x08) = true := by
  decide +kernel

/-- A8, A9. -/
theorem test_xorVy : answers (ran 0x8013 (withRegs [(0, 0x0C), (1, 0x0A)])) (fun t => t.getV 0 == 0x06) = true ∧
    answers (ran 0x8003 (withRegs [(0, 0x5A)])) (fun t => t.getV 0 == 0) = true := by decide +kernel

/-- W1, A12, A13. -/
theorem test_addVy :
    answers (ran 0x8014 (withRegs [(0, 0x0A), (1, 0x05)])) (fun t => t.getV 0 == 0x0F && t.getV 15 == 0 && t.pc == 0x202) = true ∧
    answers (ran 0x8014 (withRegs [(0, 0xFF), (1, 0x01)])) (fun t => t.getV 0 == 0 && t.getV 15 == 1) = true ∧
    answers (ran 0x8014 (withRegs [(0, 0x80), (1, 0x80)])) (fun t => t.getV 0 == 0 && t.getV 15 == 1) = true ∧
    answers (ran 0x8014 (withRegs [(0, 0xFF), (15, 1)])) (fun t => t.getV 0 == 0xFF && t.getV 15 == 0) = true := by
  decide +kernel

/-- A14, A15, A16: VF as destination, as source, and x = y. -/
theorem test_addVy_aliases : answers (ran 0x8F04 (withRegs [(0, 0x90), (15, 0x80)])) (fun t => t.getV 15 == 1) = true ∧
    answers (ran 0x80F4 (withRegs [(0, 0x01), (15, 0xFF)])) (fun t => t.getV 0 == 0 && t.getV 15 == 1) = true ∧
    answers (ran 0x8004 (withRegs [(0, 0xC0)])) (fun t => t.getV 0 == 0x80 && t.getV 15 == 1) = true := by
  decide +kernel

/-- A17, A18, A19, A20. -/
theorem test_subVy :
    answers (ran 0x8015 (withRegs [(0, 5), (1, 3)])) (fun t => t.getV 0 == 2 && t.getV 15 == 0) = true ∧
    answers (ran 0x8015 (withRegs [(0, 0), (1, 1)])) (fun t => t.getV 0 == 0xFF && t.getV 15 == 1) = true ∧
    answers (ran 0x8015 (withRegs [(0, 7), (1, 7), (15, 1)])) (fun t => t.getV 0 == 0 && t.getV 15 == 0) = true ∧
    answers (ran 0x8F15 (withRegs [(15, 0x10), (1, 0x20)])) (fun t => t.getV 15 == 1) = true := by decide +kernel

/-- A17n, A18n, A19n, A22n. -/
theorem test_subVy_notBorrow :
    answers (ranWith { hwParams with borrowSense := .notBorrow } 0x8015 (withRegs [(0, 5), (1, 3)]))
      (fun t => t.getV 0 == 2 && t.getV 15 == 1) = true ∧
    answers (ranWith { hwParams with borrowSense := .notBorrow } 0x8015 (withRegs [(0, 0), (1, 1)]))
      (fun t => t.getV 0 == 0xFF && t.getV 15 == 0) = true ∧
    answers (ranWith { hwParams with borrowSense := .notBorrow } 0x8015 (withRegs [(0, 7), (1, 7)]))
      (fun t => t.getV 0 == 0 && t.getV 15 == 1) = true ∧
    answers (ranWith { hwParams with borrowSense := .notBorrow } 0x8017 (withRegs [(0, 5), (1, 3)]))
      (fun t => t.getV 0 == 0xFE && t.getV 15 == 0) = true := by decide +kernel

/-- A21, A22. -/
theorem test_subnVy :
    answers (ran 0x8017 (withRegs [(0, 3), (1, 5)])) (fun t => t.getV 0 == 2 && t.getV 15 == 0) = true ∧
    answers (ran 0x8017 (withRegs [(0, 5), (1, 3)])) (fun t => t.getV 0 == 0xFE && t.getV 15 == 1) = true := by
  decide +kernel

/-- A23, A24, A25, A26. -/
theorem test_shrVy : answers (ran 0x8446 (withRegs [(4, 5)])) (fun t => t.getV 4 == 2 && t.getV 15 == 1) = true ∧
    answers (ran 0x8406 (withRegs [(4, 0xFF)])) (fun t => t.getV 4 == 0x7F && t.getV 15 == 1) = true ∧
    answers (ran 0x8016 (withRegs [(1, 3)])) (fun t => t.getV 0 == 0 && t.getV 15 == 0) = true ∧
    answers (ran 0x8F06 (withRegs [(15, 2)])) (fun t => t.getV 15 == 0) = true := by decide +kernel

/-- A25y. -/
theorem test_shrVy_vy : answers (ranWith { hwParams with shiftSrc := .vy } 0x8016 (withRegs [(1, 3)]))
    (fun t => t.getV 0 == 1 && t.getV 15 == 1) = true := by decide +kernel

/-- A27, A28. -/
theorem test_shlVy : answers (ran 0x844E (withRegs [(4, 0x81)])) (fun t => t.getV 4 == 2 && t.getV 15 == 1) = true ∧
    answers (ran 0x840E (withRegs [(4, 0x40), (15, 1)])) (fun t => t.getV 4 == 0x80 && t.getV 15 == 0) = true := by
  decide +kernel

/-- A29. -/
theorem test_shlVy_vy : answers (ranWith { hwParams with shiftSrc := .vy } 0x801E (withRegs [(0, 1), (1, 0x80)]))
    (fun t => t.getV 0 == 0 && t.getV 15 == 1) = true := by decide +kernel

/-- A30, A31, A32, with the draw as given there. -/
theorem test_rnd_of_draw : (rndOfDraw 0xB6 3 0x0F State.reset).getV 3 = 0x06 ∧
    (rndOfDraw 0xFF 3 0x00 State.reset).getV 3 = 0x00 ∧ (rndOfDraw 0x5C 3 0xFF State.reset).getV 3 = 0x5C := by decide

/-- RND runs, whatever the draw, and writes no flag (R143). -/
theorem test_rnd_runs : answers (ran 0xC300 (withRegs [(3, 9), (15, 7)])) (fun t => t.pc == 0x202 && t.getV 15 == 7) = true := by
  decide +kernel

/-! ### Index register and memory -/

/-- M1. -/
theorem test_ldI : answers (ran 0xA2F0 State.reset) (fun t => t.i == 0x2F0) = true := by decide +kernel

/-- M2, M3, M4. -/
theorem test_addIVx :
    answers (ran 0xF51E { withRegs [(5, 0x10)] with i := 0x300 }) (fun t => t.i == 0x310) = true ∧
    answers (ran 0xF01E { withRegs [(0, 1), (15, 7)] with i := 0xFFF }) (fun t => t.i == 0x1000 && t.getV 15 == 7) = true ∧
    answers (ran 0xF01E { withRegs [(0, 1)] with i := 0xFFFF }) (fun t => t.i == 0) = true := by decide +kernel

/-- M5, M6, M7. -/
theorem test_ldFVx : answers (ran 0xF229 (withRegs [(2, 7)])) (fun t => t.i == 0x073) = true ∧
    answers (ran 0xF029 (withRegs [(0, 0x1A)])) (fun t => t.i == 0x082) = true ∧
    answers (ran 0xF029 (withRegs [(0, 0x0F)])) (fun t => t.i == 0x09B) = true := by decide +kernel

/-- M8, M9, M10, M11. -/
theorem test_ldBVx :
    answers (ran 0xF333 { withRegs [(3, 0x9C)] with i := 0x300 }) (fun t => Memory.readBytes hwParams t.mem 0x300 3 == [1, 5, 6]) = true ∧
    answers (ran 0xF033 { withRegs [(0, 0xFF)] with i := 0x300 }) (fun t => Memory.readBytes hwParams t.mem 0x300 3 == [2, 5, 5]) = true ∧
    answers (ran 0xF033 (withBytes 0x300 [9, 9, 9] { State.reset with i := 0x300 }))
      (fun t => Memory.readBytes hwParams t.mem 0x300 3 == [0, 0, 0]) = true ∧
    answers (ran 0xF033 { withRegs [(0, 1)] with i := 0xFFD }) (fun t => Memory.readBytes hwParams t.mem 0xFFD 3 == [0, 0, 1]) = true := by
  decide +kernel

/-- M12, M13, M13g. -/
theorem test_ldBVx_faults :
    answers (ran 0xF033 { State.reset with i := 0xFFE }) (fun t => faulted t .memoryOutOfBounds 0x200 0xF033 0x1000 0x202) = true ∧
    answers (ran 0xF033 { State.reset with i := 0x1FF })
      (fun t => faulted t .reservedRegion 0x200 0xF033 0x1FF 0x202 && t.byteAt 0x200 == 0xF0) = true ∧
    answers (ranWith { hwParams with guardReserved := false } 0xF033 { withRegs [(0, 0x7B)] with i := 0x1FF })
      (fun t => Memory.readBytes hwParams t.mem 0x1FF 3 == [1, 2, 3]) = true := by decide +kernel

/-- M14, M14i. -/
theorem test_ldMemVx :
    answers (ran 0xF255 { withRegs [(0, 1), (1, 2), (2, 3), (3, 4)] with i := 0x400 })
      (fun t => Memory.readBytes hwParams t.mem 0x400 4 == [1, 2, 3, 0] && t.i == 0x400) = true ∧
    answers (ranWith { hwParams with lsIncrement := .xPlus1 } 0xF255 { withRegs [(0, 1), (1, 2), (2, 3)] with i := 0x400 })
      (fun t => Memory.readBytes hwParams t.mem 0x400 3 == [1, 2, 3] && t.i == 0x403) = true := by decide +kernel

/-- M15, M16. -/
theorem test_ldMemVx_faults :
    answers (ran 0xFF55 { State.reset with i := 0xFF1 }) (fun t => faulted t .memoryOutOfBounds 0x200 0xFF55 0x1000 0x202) = true ∧
    answers (ran 0xF055 { State.reset with i := 0x100 }) (fun t => faulted t .reservedRegion 0x200 0xF055 0x100 0x202) = true := by
  decide +kernel

/-- M18, M19, M21, M22. -/
theorem test_ldVxMem :
    answers (ran 0xF165 (withBytes 0x400 [0xAA, 0xBB, 0xCC] { State.reset with i := 0x400 }))
      (fun t => t.getV 0 == 0xAA && t.getV 1 == 0xBB && t.getV 2 == 0 && t.i == 0x400) = true ∧
    answers (ran 0xF065 (withBytes 0xFFF [0x77] { State.reset with i := 0xFFF })) (fun t => t.getV 0 == 0x77) = true ∧
    answers (ran 0xF065 { State.reset with i := 0x050 }) (fun t => t.getV 0 == 0xF0) = true ∧
    answers (ran 0xFF65 { State.reset with i := 0x050 })
      (fun t => t.v.toList == [0xF0, 0x90, 0x90, 0x90, 0xF0, 0x20, 0x60, 0x20] ++
        [0x20, 0x70, 0xF0, 0x10, 0xF0, 0x80, 0xF0, 0xF0]) = true := by decide +kernel

/-- M20, M22i. -/
theorem test_ldVxMem_fault_and_increment :
    answers (ran 0xF165 { withRegs [(0, 1), (1, 2)] with i := 0xFFF })
      (fun t => faulted t .memoryOutOfBounds 0x200 0xF165 0x1000 0x202 && t.getV 0 == 1 && t.getV 1 == 2) = true ∧
    answers (ranWith { hwParams with lsIncrement := .xPlus1 } 0xF165 { withRegs [(0, 1)] with i := 0x400 })
      (fun t => t.getV 0 == 0 && t.i == 0x402) = true := by decide +kernel

/-! ### Display -/

/-- DP10. -/
theorem test_cls : answers (ran 0x00E0 { withRegs [(15, 1)] with disp := (Display.clear.flip 0 0).flip 0 2 })
    (fun t => lights t.disp [] [(0, 0), (0, 2), (0, 1), (31, 63)] && t.getV 15 == 1) = true := by decide +kernel

/-- W6 and DP1, DP3, DP5: where the pixels land. -/
theorem test_drw_pixels :
    answers (ran 0xD015 { State.reset with i := 0x050 })
      (fun t => lights t.disp glyph0 aroundGlyph0 && t.getV 15 == 0) = true ∧
    answers (ran 0xD015 { withRegs [(0, 64), (1, 32)] with i := 0x050 })
      (fun t => lights t.disp glyph0 aroundGlyph0 && t.getV 15 == 0) = true ∧
    answers (ran 0xD125 { withRegs [(1, 0x3E), (2, 0x1F)] with i := 0x073 })
      (fun t => lights t.disp [(31, 62), (31, 63), (31, 0), (31, 1), (0, 1), (1, 0), (2, 63), (3, 63)]
        [(0, 0), (0, 62), (0, 63), (1, 62), (1, 63), (1, 1), (2, 62), (2, 0), (3, 0), (31, 2), (31, 61)] &&
        t.getV 15 == 0) = true := by decide +kernel

/-- DP4, DP6 to DP9, DP11: no rows, the bounds check, the collision flag, VF as a coordinate. -/
theorem test_drw_flag_and_bounds :
    answers (ran 0xD010 { withRegs [(15, 1)] with i := 0x050 })
      (fun t => lights t.disp [] [(0, 0), (0, 1)] && t.getV 15 == 0) = true ∧
    answers (ran 0xD015 { withRegs [(15, 3)] with i := 0xFFC })
      (fun t => faulted t .memoryOutOfBounds 0x200 0xD015 0x1000 0x202 && lights t.disp [] [(0, 0)] &&
        t.getV 15 == 3) = true ∧
    answers (ran 0xD011 (withBytes 0xFFF [0x80] { State.reset with i := 0xFFF }))
      (fun t => lights t.disp [(0, 0)] [(0, 1), (1, 0)]) = true ∧
    answers (ran 0xD011 (withBytes 0x300 [0x60] { State.reset with i := 0x300, disp := (Display.clear.flip 0 0).flip 0 2 }))
      (fun t => lights t.disp [(0, 0), (0, 1)] [(0, 2), (0, 3)] && t.getV 15 == 1) = true ∧
    answers (ran 0xD011 (withBytes 0x300 [0x60] { State.reset with i := 0x300, disp := Display.clear.flip 0 1 }))
      (fun t => lights t.disp [(0, 2)] [(0, 0), (0, 1), (0, 3)] && t.getV 15 == 1) = true ∧
    answers (ran 0xDFF1 (withBytes 0x300 [0x80] { withRegs [(15, 5)] with i := 0x300 }))
      (fun t => lights t.disp [(5, 5)] [(0, 0), (5, 4), (5, 6)] && t.getV 15 == 0) = true := by decide +kernel

/-! ### Keys and timers -/

/-- K1, K2, K3, K4. -/
theorem test_skp : answers (ran 0xE19E (withKeys [5] (withRegs [(1, 5)]))) (fun t => t.pc == 0x204) = true ∧
    answers (ran 0xE19E (withRegs [(1, 5)])) (fun t => t.pc == 0x202) = true ∧
    answers (ran 0xE19E (withKeys [5] (withRegs [(1, 0x15)]))) (fun t => t.pc == 0x204) = true ∧
    answers (ranWith { hwParams with keyIndexMode := .fault } 0xE19E (withKeys [5] (withRegs [(1, 0x15)])))
      (fun t => faulted t .keyIndexOutOfRange 0x200 0xE19E 0 0x202) = true := by decide +kernel

/-- K5, K6. -/
theorem test_sknp : answers (ran 0xE1A1 (withRegs [(1, 5)])) (fun t => t.pc == 0x204) = true ∧
    answers (ran 0xE1A1 (withKeys [5] (withRegs [(1, 5)]))) (fun t => t.pc == 0x202) = true := by decide +kernel

/-- K8. -/
theorem test_ldVxDt : answers (ran 0xF007 { State.reset with dt := 0x3C }) (fun t => t.getV 0 == 0x3C) = true := by
  decide +kernel

/-- K9. -/
theorem test_ldDtVx : answers (ran 0xF215 (withRegs [(2, 0x0A)])) (fun t => t.dt == 0x0A && t.st == 0) = true := by
  decide +kernel

/-- K10. -/
theorem test_ldStVx : answers (ran 0xF218 (withRegs [(2, 5)])) (fun t => t.st == 5 && t.soundOn && t.dt == 0) = true := by
  decide +kernel

/-- K11, K12, K13, K14. -/
theorem test_ldVxK :
    answers (ran 0xF30A State.reset) (fun t => t.stepResult == .waiting && t.waitX == 3 && t.pc == 0x202) = true ∧
    answers (ran 0xF30A (withKeys [3] State.reset)) (fun t => t.getV 3 == 3 && t.pc == 0x202 && t.stepResult == .ok) = true ∧
    answers (ran 0xF30A (withKeys [9, 2] State.reset)) (fun t => t.getV 3 == 2) = true ∧
    answers (ranWith { hwParams with keyWaitMode := .edge } 0xF30A (withKeys [3] State.reset))
      (fun t => t.stepResult == .waiting && t.waitX == 3 && t.keyPrev[3] && t.pc == 0x202) = true := by decide +kernel

/-- W2 after its SET_KEY, and two STEPs of the edge-mode wait. -/
theorem test_wait :
    answers (step (withKeys [3] { State.reset with runState := .awaitingKey, waitX := 5, pc := 0x202 }))
      (fun t => t.getV 5 == 3 && t.stepResult == .ok && t.pc == 0x202) = true ∧
    answers (stepWith { hwParams with keyWaitMode := .edge }
        (withKeys [3] { State.reset with runState := .awaitingKey, waitX := 5, keyPrev := State.reset.key.set 3 true }))
      (fun t => t.stepResult == .waiting && t.keyPrev[3]) = true ∧
    answers (stepWith { hwParams with keyWaitMode := .edge }
        { State.reset with runState := .awaitingKey, waitX := 5, keyPrev := State.reset.key.set 3 true })
      (fun t => t.stepResult == .waiting && !t.keyPrev[3]) = true := by decide +kernel

/-- T1, T2, T3, T4, T5. -/
theorem test_tick : (tick { State.reset with dt := 1, st := 2 }).dt = 0 ∧ (tick { State.reset with dt := 1, st := 2 }).st = 1 ∧
    (tick { State.reset with st := 1 }).soundOn = false ∧ tick State.reset = State.reset ∧
    (tick { State.reset with runState := .halted, dt := 5 }).dt = 4 ∧
    (tick { State.reset with runState := .awaitingKey, st := 9 }).st = 8 := by decide +kernel

/-- T6. -/
theorem test_setKey : (setKey 0xC true State.reset).isPressed 0xC = true ∧
    setKey 0xC false (setKey 0xC true State.reset) = State.reset := by decide +kernel

/-! ### Fetch, faults and the host's transactions -/

/-- X4 to X8, X7b: the fetch checks in their order. -/
theorem test_fetch : answers (ran 0x1234 { State.reset with pc := 0xFFE }) (fun t => t.pc == 0x234) = true ∧
    answers (step { State.reset with pc := 0xFFF }) (fun t => faulted t .memoryOutOfBounds 0xFFF 0 0x1000 0xFFF) = true ∧
    answers (step { State.reset with pc := 0x1FF }) (fun t => faulted t .misalignedPc 0x1FF 0 0 0x1FF) = true ∧
    answers (step { State.reset with pc := 0x1000 }) (fun t => faulted t .memoryOutOfBounds 0x1000 0 0x1000 0x1000) = true ∧
    answers (step { State.reset with pc := 0x10FE }) (fun t => faulted t .memoryOutOfBounds 0x10FE 0 0x10FE 0x10FE) = true ∧
    answers (step { State.reset with pc := 0x1FE }) (fun t => faulted t .reservedRegion 0x1FE 0 0x1FE 0x1FE) = true := by
  decide +kernel

/-- X9, X10. -/
theorem test_fetch_variants :
    answers (stepWith { hwParams with guardReserved := false } { State.reset with pc := 0x1FE })
      (fun t => faulted t .unknownOpcode 0x1FE 0 0 0x200) = true ∧
    answers (stepWith { hwParams with alignCheck := false } (withBytes 0x201 [0x60, 0x42] { State.reset with pc := 0x201 }))
      (fun t => t.getV 0 == 0x42 && t.pc == 0x203) = true := by decide +kernel

/-- X1, X2, CF16. -/
theorem test_unknown_opcode : answers (ran 0x0123 State.reset) (fun t => faulted t .unknownOpcode 0x200 0x0123 0 0x202) = true ∧
    answers (step State.reset) (fun t => faulted t .unknownOpcode 0x200 0 0 0x202) = true ∧
    answers (ran 0x5121 State.reset) (fun t => faulted t .unknownOpcode 0x200 0x5121 0 0x202) = true := by decide +kernel

/-- X11: a STEP in Halted, after W3. -/
theorem test_halted :
    answers (step { State.reset with runState := .halted, faultKind := .stackUnderflow, faultPc := 0x200, faultOp := 0x00EE })
      (fun t => faulted t .stackUnderflow 0x200 0x00EE 0 0x200 && t.stepResult == .fault .stackUnderflow) = true := by
  decide +kernel

/-- X12, X14, and the font of 20_memory.md R62 in place. -/
theorem test_load_and_construct :
    (load hwParams [0x12, 0x00] { withKeys [4] State.reset with runState := .halted, faultKind := .stackOverflow }).1 =
      withKeys [4] (State.reset.withFetchWord 16 0x1200) ∧
    (load hwParams [0x12, 0x00] State.reset).2 = .ok ∧ construct hwParams (withKeys [4] State.reset) = State.reset ∧
    Memory.readBytes hwParams State.reset.mem 0x050 5 = [0xF0, 0x90, 0x90, 0x90, 0xF0] ∧
    Memory.readBytes hwParams State.reset.mem 0x09B 6 = [0xF0, 0x80, 0xF0, 0x80, 0x80, 0] := by decide +kernel

/-- 10_state.md R37 and 60_exceptions.md R226: the status output after K14 and after a fault. -/
theorem test_status :
    answers (ranWith { hwParams with keyWaitMode := .edge } 0xF30A (withKeys [3] State.reset))
      (fun t => t.status.runState == 1 && t.status.waitX == 3 && t.status.keyPrev[3] && !t.status.keyPrev[2]) = true ∧
    answers (step State.reset) (fun t => t.status.runState == 2 && t.status.faultKind == 1 && t.status.faultPc == 0x200) =
      true := by decide +kernel

/-- W5b, X13. -/
theorem test_load_too_large : load hwParams (List.replicate 3585 0x11) { State.reset with runState := .halted } =
    ({ State.reset with runState := .halted }, .romTooLarge) := by decide +kernel

/-- withFetchWord stores the word where the next STEP fetches, also from a PC that no fetch accepts. -/
theorem test_withFetchWord : answers (ran 0x6A2B State.reset) (fun t => t.getV 10 == 0x2B) = true ∧
    answers (ran 0x6A2B { State.reset with runState := .halted, pc := 0x10FE })
      (fun t => t.getV 10 == 0x2B && t.pc == 0x202) = true := by decide +kernel

/-! ### Witnesses: the hypotheses of each statement are met, at the boundaries of their ranges -/

/-- An answer that passes a check is a next state. -/
theorem next_of_answers {r : Result} {check : State → Bool} (h : answers r check = true) :
    ∃ t, r = .next t ∧ check t = true := by
  cases r with
  | next t => exact ⟨t, rfl, h⟩
  | fault _ => cases h
  | refused _ => cases h

/-- A state in the key wait. -/
def waiting : State := { State.reset with runState := .awaitingKey, waitX := 5, pc := 0x202 }

/-- DecodeThenEncode; IllegalWordsHalt and StepExecutesDecodedInstruction, at both ends of the fetchable range. -/
theorem test_witness_decode : decodeWord 0x1342 = some (.jp 0x342) ∧
    State.reset.runState = .running ∧ Fetchable State.reset.pc ∧ decodeWord State.reset.opcodeAtPc = none ∧
    Fetchable (State.withFetchWord { State.reset with pc := 0xFFE } 16 0x1234).pc ∧
    decodeWord (State.withFetchWord { State.reset with pc := 0xFFE } 16 0x1234).opcodeAtPc = some (.jp 0x234) := by
  unfold Fetchable; decide +kernel

/-- OpcodeRowsNeverOverlap: a word that matches a row (8014 matches the row of 8xy4, the 14th). -/
theorem test_witness_rows : opcodeTable[(13 : Fin 34).val]? = some ⟨0xF00F, 0x8004⟩ ∧
    (0x8014 : Word) &&& 0xF00F = 0x8004 := by decide

/-- HaltedIsSticky: a Halted state, its transactions, and ROMs that fit. -/
theorem test_witness_halted : ({ State.reset with runState := .halted } : State).runState = .halted ∧
    (∀ t ∈ [Transaction.step, .tick, .setKey 3 true], t = .step ∨ t = .tick ∨ ∃ k p, t = .setKey k p) ∧
    ([] : List Byte).length ≤ 3584 ∧ (List.replicate 3584 (0x11 : Byte)).length ≤ 3584 := by
  refine ⟨rfl, ?_, by decide, by decide +kernel⟩
  intro t ht
  simp only [List.mem_cons, List.not_mem_nil, or_false] at ht
  rcases ht with rfl | rfl | rfl
  · exact .inl rfl
  · exact .inr (.inl rfl)
  · exact .inr (.inr ⟨3, true, rfl⟩)

/-- WaitStepChecksTheLatch: a lowest qualifying key and none, in level and in edge mode (K13, and the edge-mode
wait). -/
theorem test_witness_wait : waiting.runState = .awaitingKey ∧
    Qualifies hwParams (withKeys [9, 2] waiting).key waiting.keyPrev 2 ∧
    (∀ j, j < 2 → ¬Qualifies hwParams (withKeys [9, 2] waiting).key waiting.keyPrev j) ∧
    (∀ k, ¬Qualifies hwParams waiting.key waiting.keyPrev k) ∧
    Qualifies { hwParams with keyWaitMode := .edge } (withKeys [15] waiting).key waiting.keyPrev 15 ∧
    (∀ k, ¬Qualifies { hwParams with keyWaitMode := .edge } (withKeys [15] waiting).key (withKeys [15] waiting).key k) := by
  unfold Qualifies; decide +kernel

/-- RetPopsTheStack and CallPushesReturnAddress: SP at 0, 1, 15 and 16. -/
theorem test_witness_stack : (ready 0x00EE 0 0).sp = 0 ∧ (ready 0x00EE 1 0).sp.toNat = (0 : Fin 16).val + 1 ∧
    (ready 0x00EE 16 0).sp.toNat = (15 : Fin 16).val + 1 ∧ (ready 0x2300 16 0).sp.toNat = 16 ∧
    (ready 0x2300 0 0).sp.toNat = (0 : Fin 16).val ∧ (ready 0x2300 15 0).sp.toNat = (15 : Fin 16).val := by
  decide +kernel

/-- ParkedLoopStandsStill (CF6). -/
theorem test_witness_parked : (ready 0x1200 0 0).Executes (.jp 0x200) ∧
    (0x200 : Addr12).toNat = (ready 0x1200 0 0).pc.toNat := by
  unfold State.Executes Fetchable; decide +kernel

/-- SkipsOnRegisters: an illegal low nibble. LogicOperations: each of its three cases, with VF as x too. -/
theorem test_witness_logic : (1 : Nibble) ≠ 0 ∧
    (∀ i ∈ [Instr.orVy 15 1, .andVy 15 1, .xorVy 15 1],
      ∃ r : Byte, i = .orVy 15 1 ∧ r = State.reset.getV 15 ||| State.reset.getV 1 ∨
        i = .andVy 15 1 ∧ r = State.reset.getV 15 &&& State.reset.getV 1 ∨
        i = .xorVy 15 1 ∧ r = State.reset.getV 15 ^^^ State.reset.getV 1) := by
  refine ⟨by decide, fun i hi => ?_⟩
  simp only [List.mem_cons, List.not_mem_nil, or_false] at hi
  rcases hi with rfl | rfl | rfl
  · exact ⟨_, .inl ⟨rfl, rfl⟩⟩
  · exact ⟨_, .inr (.inl ⟨rfl, rfl⟩)⟩
  · exact ⟨_, .inr (.inr ⟨rfl, rfl⟩)⟩

/-- SubtractSetsBorrow, ShiftsByOne, IndexPointsAtGlyph, LoadResets, ResetMeetsInvariant: parameters they name. -/
theorem test_witness_parameters : Config.borrowSense { hwParams with borrowSense := .notBorrow } = .notBorrow ∧
    Config.shiftSrc { hwParams with shiftSrc := .vy } = .vy ∧ hwParams.wf = true ∧
    Config.wf { hwParams with fontBase := 0x1B0, guardReserved := false } = true ∧
    ([0x12, 0x00] : List Byte).length ≤ 0x1000 - hwParams.programStart.toNat ∧
    (List.replicate 3584 (0x11 : Byte)).length ≤ 0x1000 - hwParams.programStart.toNat := by
  refine ⟨rfl, rfl, by decide, by decide, by decide, ?_⟩
  rw [List.length_replicate]
  decide

/-- DecimalDigitsStored: I at 0, 0x1FF, 0x200, 0xFFD, 0xFFE and 0xFFFF, each under its clause. -/
theorem test_witness_decimal : 0xFFF < (ready 0xF033 0 0xFFE).i.toNat + 2 ∧ 0xFFF < (ready 0xF033 0 0xFFFF).i.toNat + 2 ∧
    (ready 0xF033 0 0x1FF).i.toNat < 0x200 ∧ (ready 0xF033 0 0).i.toNat < 0x200 ∧
    Memory.wf hwParams (ready 0xF033 0 0x200).mem = true ∧ 0x200 ≤ (ready 0xF033 0 0x200).i.toNat ∧
    (ready 0xF033 0 0x200).i.toNat + 2 ≤ 0xFFF ∧ (ready 0xF033 0 0xFFD).i.toNat + 2 ≤ 0xFFF ∧
    Config.guardReserved { hwParams with guardReserved := false } = false ∧
    Memory.wf { hwParams with guardReserved := false } (ready 0xF033 0 0x1FF).mem = true := by decide +kernel

/-- BulkStore and BulkLoad with x = 15: I at 0x1FF, 0x200, 0xFF0, 0xFF1 and 0xFFFF, each under its clause. -/
theorem test_witness_bulk : 0xFFF < (ready 0xFF55 0 0xFF1).i.toNat + (15 : Reg).val ∧
    0xFFF < (ready 0xFF55 0 0xFFFF).i.toNat + (15 : Reg).val ∧ (ready 0xFF55 0 0x1FF).i.toNat < 0x200 ∧
    Memory.wf hwParams (ready 0xFF55 0 0x200).mem = true ∧ 0x200 ≤ (ready 0xFF55 0 0x200).i.toNat ∧
    (ready 0xFF55 0 0x200).i.toNat + (15 : Reg).val ≤ 0xFFF ∧ 0x200 ≤ (ready 0xFF55 0 0xFF0).i.toNat ∧
    (ready 0xFF55 0 0xFF0).i.toNat + (15 : Reg).val ≤ 0xFFF ∧
    Config.lsIncrement { hwParams with lsIncrement := .xPlus1 } = .xPlus1 ∧
    (Config.guardReserved { hwParams with lsIncrement := .xPlus1 } = true →
      hwParams.programStart.toNat ≤ (ready 0xFF55 0 0x200).i.toNat) ∧
    Memory.wf { hwParams with lsIncrement := .xPlus1 } (ready 0xFF55 0 0x200).mem = true := by decide +kernel

/-- BulkStore without GUARD_RESERVED and with I left (x = 15): I at 0, 0x1FF and 0xFF0. -/
theorem test_witness_store_unguarded : Config.lsIncrement { hwParams with guardReserved := false } = .unchanged ∧
    Config.guardReserved { hwParams with guardReserved := false } = false ∧
    (ready 0xFF55 0 0).i.toNat + (15 : Reg).val ≤ 0xFFF ∧ (ready 0xFF55 0 0x1FF).i.toNat + (15 : Reg).val ≤ 0xFFF ∧
    (ready 0xFF55 0 0xFF0).i.toNat + (15 : Reg).val ≤ 0xFFF ∧
    Memory.wf { hwParams with guardReserved := false } (ready 0xFF55 0 0x1FF).mem = true := by decide +kernel

/-- BulkLoadUndoesBulkStore and StoredCodeIsFetched: an F155 at 0x200 that overwrites its successor, I = 0x202. -/
theorem test_witness_stored_code : Memory.wf hwParams (ready 0xF155 0 0x202).mem = true ∧
    (ready 0xF155 0 0x202).Executes (.ldMemVx 1) ∧ 0x200 ≤ (ready 0xF155 0 0x202).i.toNat ∧
    (ready 0xF155 0 0x202).i.toNat + (1 : Reg).val ≤ 0xFFF ∧
    answers (step (ready 0xF155 0 0x202)) (fun _ => true) = true ∧
    answers (exec (.ldMemVx 1) (ready 0xF155 0 0x202)) (fun _ => true) = true := by
  unfold State.Executes Fetchable; decide +kernel

/-- StoredCodeIsFetched: an F033 at 0x200 whose last digit overwrites the first byte of its successor, I = 0x200. -/
theorem test_witness_stored_digits : Memory.wf hwParams (ready 0xF033 0 0x200).mem = true ∧
    (ready 0xF033 0 0x200).Executes (.ldBVx 0) ∧ 0x200 ≤ (ready 0xF033 0 0x200).i.toNat ∧
    (ready 0xF033 0 0x200).i.toNat + 2 ≤ 0xFFF ∧
    answers (step (ready 0xF033 0 0x200)) (fun _ => true) = true := by
  unfold State.Executes Fetchable; decide +kernel

/-- DrawXorsTheSprite: n = 0 with I out of range, the last sprite that fits and the first that does not, for 15 rows and
for 1. -/
theorem test_witness_draw : (15 : Nibble) ≠ 0 ∧ 0xFFF < (ready 0xD01F 0 0xFF2).i.toNat + (15 : Nibble).toNat - 1 ∧
    (ready 0xD01F 0 0xFF1).i.toNat + (15 : Nibble).toNat - 1 ≤ 0xFFF ∧
    0xFFF < (ready 0xD011 0 0x1000).i.toNat + (1 : Nibble).toNat - 1 ∧
    (ready 0xD011 0 0xFFF).i.toNat + (1 : Nibble).toNat - 1 ≤ 0xFFF ∧
    ((0 : Nibble) = 0 ∨ (ready 0xD010 0 0xFFFF).i.toNat + (0 : Nibble).toNat - 1 ≤ 0xFFF) := by decide +kernel

/-- DrawTwiceRestores (W6a and W6b): two draws that both answer. -/
theorem test_witness_draw_twice : (0 : Reg) ≠ regF ∧ (1 : Reg) ≠ regF ∧
    (ready 0xD015 0 0x050).i.toNat + (5 : Nibble).toNat ≤ 0x1000 ∧
    ∃ t, exec (.drw 0 1 5) (ready 0xD015 0 0x050) = .next t ∧ ∃ u, exec (.drw 0 1 5) t = .next u := by
  refine ⟨by decide, by decide, by decide +kernel, ?_⟩
  have h : answers (exec (.drw 0 1 5) (ready 0xD015 0 0x050))
      (fun t => answers (exec (.drw 0 1 5) t) fun _ => true) = true := by decide +kernel
  obtain ⟨t, ht, h'⟩ := next_of_answers h
  obtain ⟨u, hu, -⟩ := next_of_answers h'
  exact ⟨t, ht, u, hu⟩

/-- DrawCoordinatesWrap (W6c): (64, 32) beside (0, 0). -/
theorem test_witness_draw_wraps : ∃ s s' : State, s' = { s with v := s'.v } ∧
    (s.getV 0).toNat % 64 = (s'.getV 0).toNat % 64 ∧ (s.getV 1).toNat % 32 = (s'.getV 1).toNat % 32 ∧
    s.getV 0 ≠ s'.getV 0 ∧ s.i.toNat + (5 : Nibble).toNat ≤ 0x1000 ∧
    (∃ t, exec (.drw 0 1 5) s = .next t) ∧ ∃ t', exec (.drw 0 1 5) s' = .next t' := by
  refine ⟨ready 0xD015 0 0x050, ((ready 0xD015 0 0x050).setV 0 64).setV 1 32, by decide +kernel, by decide +kernel,
    by decide +kernel, by decide +kernel, by decide +kernel, ?_, ?_⟩
  · obtain ⟨t, ht, -⟩ := next_of_answers (r := exec (.drw 0 1 5) (ready 0xD015 0 0x050)) (check := fun _ => true)
      (by decide +kernel)
    exact ⟨t, ht⟩
  · obtain ⟨t, ht, -⟩ := next_of_answers (r := exec (.drw 0 1 5) (((ready 0xD015 0 0x050).setV 0 64).setV 1 32))
      (check := fun _ => true) (by decide +kernel)
    exact ⟨t, ht⟩

/-- SkipsOnKey: V[x] at 0x0F and 0x10 in either mode (K1, K3, K4). -/
theorem test_witness_skip_key : ((withRegs [(1, 0x0F)]).getV 1).toNat % 16 = (15 : Key).val ∧
    ((withRegs [(1, 0x10)]).getV 1).toNat % 16 = (0 : Key).val ∧
    (((withRegs [(1, 0x0F)]).getV 1).toNat ≤ 0xF ∨ Config.keyIndexMode { hwParams with keyIndexMode := .fault } = .mask) ∧
    (((withRegs [(1, 0x10)]).getV 1).toNat ≤ 0xF ∨ hwParams.keyIndexMode = .mask) ∧
    0xF < ((withRegs [(1, 0x10)]).getV 1).toNat ∧
    Config.keyIndexMode { hwParams with keyIndexMode := .fault } = .fault := by decide +kernel

/-- KeyWaitBegins: lowest key 0, lowest key 15, no key; both modes; the wait. -/
theorem test_witness_key_wait : (withKeys [0, 9] State.reset).keyDown 0 = true ∧
    (∀ j, j < (0 : Key) → (withKeys [0, 9] State.reset).keyDown j = false) ∧
    (withKeys [15] State.reset).keyDown 15 = true ∧
    (∀ j, j < (15 : Key) → (withKeys [15] State.reset).keyDown j = false) ∧
    (∀ k, State.reset.keyDown k = false) ∧ waiting.runState = .awaitingKey ∧ hwParams.keyWaitMode = .level ∧
    Config.keyWaitMode { hwParams with keyWaitMode := .edge } = .edge := by decide +kernel

/-- WaitNeedsAKeyPress: the wait with no key, and a list of STEPs and TICKs. -/
theorem test_witness_wait_without_key : waiting.runState = .awaitingKey ∧ (∀ k, waiting.keyDown k = false) ∧
    ∀ t ∈ [Transaction.step, .tick, .step], t = .step ∨ t = .tick := by decide +kernel

/-- FaultsArePrecise: a fault of a fetched opcode (X2) and one of the fetch (X8). -/
theorem test_witness_faults : (∃ t, step State.reset = .next t ∧ t.runState = .halted) ∧ Fetchable State.reset.pc ∧
    (∃ t, step { State.reset with pc := 0x1FE } = .next t ∧ t.runState = .halted) ∧ ¬Fetchable (0x1FE : Word) := by
  refine ⟨⟨_, rfl, rfl⟩, by unfold Fetchable; decide, ⟨_, rfl, rfl⟩, by unfold Fetchable; decide⟩

/-- EveryInstructionCompletes: SP at 16 and at 17, and an instruction that is neither CALL nor RET. -/
theorem test_witness_completes : (ready 0x00EE 16 0).sp.toNat ≤ 16 ∧ 16 < (ready 0x00EE 17 0).sp.toNat ∧
    Instr.cls ≠ .ret ∧ (∀ nnn, Instr.cls ≠ .call nnn) ∧
    ((Instr.ret) = .ret ∨ (Instr.ret) = .call 0) ∧ ((Instr.call 0x300) = .ret ∨ (Instr.call 0x300) = .call 0x300) :=
  ⟨by decide +kernel, by decide +kernel, nofun, nofun, .inl rfl, .inr rfl⟩

/-- TimersCountTicksNotSteps: a STEP of a parked loop, which executes neither timer write. -/
theorem test_witness_timers : (∃ t, step (ready 0x1200 0 0) = .next t) ∧
    (∀ x, ¬(ready 0x1200 0 0).Executes (.ldDtVx x)) ∧ (∀ x, ¬(ready 0x1200 0 0).Executes (.ldStVx x)) := by
  refine ⟨?_, ?_, ?_⟩
  · obtain ⟨t, ht, -⟩ := next_of_answers (r := step (ready 0x1200 0 0)) (check := fun _ => true) (by decide +kernel)
    exact ⟨t, ht⟩
  · unfold State.Executes Fetchable; decide +kernel
  · unfold State.Executes Fetchable; decide +kernel

/-- LoadVerdictAtTheBoundary: W5. -/
theorem test_witness_load : 3584 < (List.replicate 3585 (0x11 : Byte)).length ∧
    (List.replicate 3584 (0x11 : Byte)).length ≤ 3584 := by decide +kernel

/-- DisplayAndKeysWriters, IndexAndStackWriters, MemoryWriters, FlagRegisterWriters: STEPs that do change what each
statement speaks of. -/
theorem test_witness_writers :
    answers (step (ready 0xD015 0 0x050)) (fun t => t.disp.pixel 0 0 && !(ready 0xD015 0 0x050).disp.pixel 0 0) = true ∧
    answers (step (ready 0xA2F0 0 0)) (fun t => t.i != (ready 0xA2F0 0 0).i) = true ∧
    answers (step (ready 0x2300 0 0)) (fun t => t.sp != 0 && t.stack[0] != 0) = true ∧
    answers (step ((ready 0xF055 0 0x300).setV 0 7)) (fun t => t.byteAt 0x300 != 0) = true ∧
    Memory.wf hwParams ((ready 0xF055 0 0x300).setV 0 7).mem = true ∧
    answers (step ((ready 0x8004 0 0).setV 0 0xC0)) (fun t => t.getV regF != 0) = true := by decide +kernel

/-- RunStateTransitions: Running to AwaitingKey (K11), AwaitingKey with a key and without, and Halted. -/
theorem test_witness_run_state : answers (step (ready 0xF30A 0 0)) (fun t => t.runState == .awaitingKey) = true ∧
    (∃ k, (withKeys [3] waiting).keyDown k = true) ∧ answers (step (withKeys [3] waiting)) (fun _ => true) = true ∧
    (∀ k, waiting.keyDown k = false) ∧ answers (step waiting) (fun _ => true) = true ∧
    answers (step { State.reset with runState := .halted }) (fun _ => true) = true := by decide +kernel

/-- DrawCounterCountsDraws: a STEP that draws, one that does not, and a transaction that is no STEP. -/
theorem test_witness_draws : (ready 0xC30F 0 0).Executes (.rnd 3 0x0F) ∧
    answers (step (ready 0xC30F 0 0)) (fun t => t.draws == 1) = true ∧
    (∀ x kk, ¬State.Executes { State.reset with runState := .halted } (.rnd x kk)) ∧
    answers (step { State.reset with runState := .halted }) (fun t => t.draws == 0) = true ∧
    Transaction.construct ≠ .step := by
  refine ⟨?_, by decide +kernel, fun _ _ h => absurd h.1 (by decide), by decide +kernel, nofun⟩
  unfold State.Executes Fetchable
  decide +kernel

/-- SoundTimerIsNeverRead: a STEP that answers and one that stops. StaleStackEntriesAreNeverRead: SP = 1 and another
entry 1. -/
theorem test_witness_noninterference : answers (step (ready 0x00EE 1 0)) (fun _ => true) = true ∧
    step (ready 0x00EE 17 0) = .fault .stackPointerOutOfRange ∧ (ready 0x00EE 1 0).sp.toNat ≤ 16 ∧
    (∀ j : Fin 16, j.val < (ready 0x00EE 1 0).sp.toNat →
      ((ready 0x00EE 1 0).stack.set 1 0x300)[j.val] = (ready 0x00EE 1 0).stack[j.val]) := by
  refine ⟨by decide +kernel, rfl, by decide +kernel, by decide +kernel⟩

/-- StepKeepsInvariant and EveryTransactionKeepsInvariant: a state that is not the reset state meets the invariant,
and steps. -/
theorem test_witness_invariant : State.Inv hwParams { State.reset with pc := 0x10FE, sp := 16, v := State.reset.v.set 3 9 } ∧
    answers (step { State.reset with pc := 0x10FE, sp := 16, v := State.reset.v.set 3 9 }) (fun _ => true) = true := by
  refine ⟨⟨rfl, fun _ _ _ => rfl, by decide, by decide, by decide +kernel, by decide⟩, by decide +kernel⟩

end Sys2Proof.Tests
end

section
/-! PROOFS. Decoding (30_encoding.md R83 to R93): when the decoder answers nothing, and when a word matches a row of
the opcode map, both said through the fields of R81. -/

namespace Sys2Proof

/-- R91 through the fields of R81: the words that no family gives a meaning. `decodeWord_eq_none_iff` and
`matchesNoRow_iff` tie it to the decoder and to the opcode map. -/
def IllegalFields (op : Word) : Prop :=
  (fieldFamily op = 0x0 ∧ op ≠ 0x00E0 ∧ op ≠ 0x00EE) ∨
  ((fieldFamily op = 0x5 ∨ fieldFamily op = 0x9) ∧ fieldN op ≠ 0) ∨
  (fieldFamily op = 0x8 ∧ fieldN op ∉ ([0x0, 0x1, 0x2, 0x3, 0x4, 0x5, 0x6, 0x7, 0xE] : List Nibble)) ∨
  (fieldFamily op = 0xE ∧ fieldKk op ∉ ([0x9E, 0xA1] : List Byte)) ∨
  (fieldFamily op = 0xF ∧ fieldKk op ∉ ([0x07, 0x0A, 0x15, 0x18, 0x1E, 0x29, 0x33, 0x55, 0x65] : List Byte))

/-- The 16 families (R81), for a proof that takes them one by one. -/
theorem nibble_cases (f : Nibble) :
    f = 0x0 ∨ f = 0x1 ∨ f = 0x2 ∨ f = 0x3 ∨ f = 0x4 ∨ f = 0x5 ∨ f = 0x6 ∨ f = 0x7 ∨
    f = 0x8 ∨ f = 0x9 ∨ f = 0xA ∨ f = 0xB ∨ f = 0xC ∨ f = 0xD ∨ f = 0xE ∨ f = 0xF := by
  revert f; decide

/-! ### When the decoders answer nothing -/

/-- One dispatch step of a decoder. -/
theorem ite_some_eq_none_iff {α : Type} (p : Prop) [Decidable p] (a : α) (o : Option α) :
    (if p then some a else o) = none ↔ ¬p ∧ o = none := by
  by_cases h : p <;> simp [h]

theorem decodeFamily0_eq_none_iff (op : Word) : decodeFamily0 op = none ↔ op ≠ 0x00E0 ∧ op ≠ 0x00EE := by
  simp [decodeFamily0, ite_some_eq_none_iff]

theorem decodeLo4Zero_eq_none_iff (lo4 : Nibble) (i : Instr) : decodeLo4Zero lo4 i = none ↔ lo4 ≠ 0 := by
  simp [decodeLo4Zero]

theorem decodeFamily8_eq_none_iff (lo4 : Nibble) (x y : Reg) :
    decodeFamily8 lo4 x y = none ↔ lo4 ∉ ([0x0, 0x1, 0x2, 0x3, 0x4, 0x5, 0x6, 0x7, 0xE] : List Nibble) := by
  simp [decodeFamily8, ite_some_eq_none_iff]

theorem decodeFamilyE_eq_none_iff (lo8 : Byte) (x : Reg) :
    decodeFamilyE lo8 x = none ↔ lo8 ∉ ([0x9E, 0xA1] : List Byte) := by
  simp [decodeFamilyE, ite_some_eq_none_iff]

theorem decodeFamilyF_eq_none_iff (lo8 : Byte) (x : Reg) :
    decodeFamilyF lo8 x = none ↔
      lo8 ∉ ([0x07, 0x0A, 0x15, 0x18, 0x1E, 0x29, 0x33, 0x55, 0x65] : List Byte) := by
  simp [decodeFamilyF, ite_some_eq_none_iff]

theorem decodeWord_eq_none_iff (op : Word) : decodeWord op = none ↔ IllegalFields op := by
  rcases nibble_cases (fieldFamily op) with h | h | h | h | h | h | h | h | h | h | h | h | h | h | h | h <;>
    simp [IllegalFields, decodeWord, h, decodeFamily0_eq_none_iff, decodeLo4Zero_eq_none_iff,
      decodeFamily8_eq_none_iff, decodeFamilyE_eq_none_iff, decodeFamilyF_eq_none_iff]

/-! ### When a word matches a row of the opcode map -/

/-- The rows of a single word; the family is named as in the other rows. -/
theorem and_word_eq_iff (op : Word) (n : Nat) :
    op &&& 0xFFFF#16 = BitVec.ofNat 16 n ↔ fieldFamily op = BitVec.ofNat 4 (n / 4096) ∧ op = BitVec.ofNat 16 n := by
  rw [show op &&& 0xFFFF#16 = op from BitVec.and_allOnes, ← BitVec.toNat_inj, ← BitVec.toNat_inj, fieldFamily_toNat]
  simp only [BitVec.toNat_ofNat]
  omega

/-- The rows that fix the family alone. -/
theorem and_family_eq_iff (op : Word) {n : Nat} (h : n % 4096 = 0) :
    op &&& 0xF000#16 = BitVec.ofNat 16 n ↔ fieldFamily op = BitVec.ofNat 4 (n / 4096) := by
  have hmask := Laws.wordNnn_and_mask (fieldFamily op) (fieldNnn op)
  rw [wordNnn_fields] at hmask
  rw [hmask, ← BitVec.toNat_inj, ← BitVec.toNat_inj, wordNnn_toNat,
    show (0 : Addr12).toNat = 0 from rfl]
  simp only [BitVec.toNat_ofNat]
  omega

/-- The rows that fix the family and the low nibble. -/
theorem and_family_lo4_eq_iff (op : Word) {n : Nat} (h : n / 16 % 256 = 0) :
    op &&& 0xF00F#16 = BitVec.ofNat 16 n ↔
      fieldFamily op = BitVec.ofNat 4 (n / 4096) ∧ fieldN op = BitVec.ofNat 4 n := by
  have hmask := Laws.wordXyn_and_lo4 (fieldFamily op) (fieldX op) (fieldY op) (fieldN op)
  rw [wordXyn_fields] at hmask
  rw [hmask, ← BitVec.toNat_inj, ← BitVec.toNat_inj, ← BitVec.toNat_inj, wordXyn_toNat]
  simp only [BitVec.toNat_ofNat]
  have := (fieldN op).isLt
  omega

/-- The rows that fix the family and the low byte. -/
theorem and_family_lo8_eq_iff (op : Word) {n : Nat} (h : n / 256 % 16 = 0) :
    op &&& 0xF0FF#16 = BitVec.ofNat 16 n ↔
      fieldFamily op = BitVec.ofNat 4 (n / 4096) ∧ fieldKk op = BitVec.ofNat 8 n := by
  have hmask := Laws.wordXkk_and_lo8 (fieldFamily op) (fieldX op) (fieldKk op)
  rw [wordXkk_fields] at hmask
  rw [hmask, ← BitVec.toNat_inj, ← BitVec.toNat_inj, ← BitVec.toNat_inj, wordXkk_toNat]
  simp only [BitVec.toNat_ofNat]
  have := (fieldKk op).isLt
  omega

theorem matchesNoRow_iff (op : Word) :
    (∀ row ∈ opcodeTable, op &&& row.mask ≠ row.value) ↔ IllegalFields op := by
  simp only [opcodeTable, rowOf, List.map_cons, List.map_nil, List.forall_mem_append, List.forall_mem_cons,
    List.not_mem_nil, ne_eq, and_word_eq_iff, and_family_eq_iff, and_family_lo4_eq_iff, and_family_lo8_eq_iff,
    Nat.reduceDiv, Nat.reduceMod]
  rcases nibble_cases (fieldFamily op) with h | h | h | h | h | h | h | h | h | h | h | h | h | h | h | h <;>
    simp [IllegalFields, h]

/-! ### The illegal words as R91 lists them -/

theorem fieldFamily_eq_iff (op : Word) (f : Nibble) : fieldFamily op = f ↔ op.toNat / 4096 = f.toNat := by
  rw [← fieldFamily_toNat, BitVec.toNat_inj]

theorem fieldN_eq_iff (op : Word) (n : Nibble) : fieldN op = n ↔ op.toNat % 16 = n.toNat := by
  rw [← fieldN_toNat, BitVec.toNat_inj]

theorem fieldKk_eq_iff (op : Word) (kk : Byte) : fieldKk op = kk ↔ op.toNat % 256 = kk.toNat := by
  rw [← fieldKk_toNat, BitVec.toNat_inj]

/-- The low nibbles that family 0x8 leaves out. -/
theorem illegalLo4_iff (n : Nibble) :
    n ∉ ([0x0, 0x1, 0x2, 0x3, 0x4, 0x5, 0x6, 0x7, 0xE] : List Nibble) ↔
      n.toNat ∈ [0x8, 0x9, 0xA, 0xB, 0xC, 0xD, 0xF] := by
  revert n; decide

theorem illegalFields_iff_toNat (op : Word) : IllegalFields op ↔
    (op.toNat / 4096 = 0x0 ∧ op ≠ 0x00E0 ∧ op ≠ 0x00EE) ∨
    ((op.toNat / 4096 = 0x5 ∨ op.toNat / 4096 = 0x9) ∧ op.toNat % 16 ≠ 0) ∨
    (op.toNat / 4096 = 0x8 ∧ op.toNat % 16 ∈ [0x8, 0x9, 0xA, 0xB, 0xC, 0xD, 0xF]) ∨
    (op.toNat / 4096 = 0xE ∧ op.toNat % 256 ∉ [0x9E, 0xA1]) ∨
    (op.toNat / 4096 = 0xF ∧ op.toNat % 256 ∉ [0x07, 0x0A, 0x15, 0x18, 0x1E, 0x29, 0x33, 0x55, 0x65]) := by
  rw [IllegalFields, illegalLo4_iff, fieldN_toNat]
  simp [fieldFamily_eq_iff, fieldN_eq_iff, fieldKk_eq_iff]

end Sys2Proof
end

section
/-! PROOFS. The step cycle (30_encoding.md R100 to R102): the fetched word, the fetch checks, and what STEP answers in
each case of a fetch. -/

namespace Sys2Proof.Machine

/-! ### The fetched word and the fetch checks -/

theorem fetchWord_eq (c : Config) (m : Memory) (a : Nat) :
    fetchWord c m a = BitVec.ofNat 16 ((Memory.read c m a).toNat * 256 + (Memory.read c m (a + 1)).toNat) := by
  rw [fetchWord, ← wordOfBytes_toNat, BitVec.ofNat_toNat, BitVec.setWidth_eq]

theorem State.fetchWord_hwParams_pc (s : State) : fetchWord hwParams s.mem s.pc.toNat = s.opcodeAtPc :=
  fetchWord_eq hwParams s.mem s.pc.toNat

theorem firstOutside_eq (a : Word) : firstOutside a = if 0x1000 ≤ a.toNat then a else 0x1000 := by
  by_cases h : 0x1000 ≤ a.toNat
  · rw [firstOutside, if_neg (Nat.not_lt.mpr h), if_pos h]
  · rw [firstOutside, if_pos (Nat.lt_of_not_le h), if_neg h]
    rfl

theorem getLsbD_zero_iff_odd (a : Word) : a.getLsbD 0 = true ↔ a.toNat % 2 = 1 := by
  rw [BitVec.getLsbD, Nat.testBit_zero, decide_eq_true_iff]

theorem fetchCheck_of_outside (c : Config) {pc : Word} (hout : 0xFFF < pc.toNat + 1) :
    fetchCheck c pc = some (.memoryOutOfBounds, if 0x1000 ≤ pc.toNat then pc else 0x1000) := by
  rw [fetchCheck, if_pos hout, firstOutside_eq]

theorem fetchCheck_of_misaligned {c : Config} {pc : Word} (hin : ¬0xFFF < pc.toNat + 1)
    (hodd : c.alignCheck = true ∧ pc.toNat % 2 = 1) : fetchCheck c pc = some (.misalignedPc, 0) := by
  rw [← getLsbD_zero_iff_odd] at hodd
  rw [fetchCheck, if_neg hin, if_pos hodd]

theorem fetchCheck_of_reserved {c : Config} {pc : Word} (hin : ¬0xFFF < pc.toNat + 1)
    (heven : ¬(c.alignCheck = true ∧ pc.toNat % 2 = 1))
    (hlow : c.guardReserved = true ∧ pc.toNat < c.programStart.toNat) :
    fetchCheck c pc = some (.reservedRegion, pc) := by
  rw [← getLsbD_zero_iff_odd] at heven
  rw [fetchCheck, if_neg hin, if_neg heven, if_pos hlow]

theorem fetchCheck_of_passed {c : Config} {pc : Word} (hin : ¬0xFFF < pc.toNat + 1)
    (heven : ¬(c.alignCheck = true ∧ pc.toNat % 2 = 1))
    (hhigh : ¬(c.guardReserved = true ∧ pc.toNat < c.programStart.toNat)) : fetchCheck c pc = none := by
  rw [← getLsbD_zero_iff_odd] at heven
  rw [fetchCheck, if_neg hin, if_neg heven, if_neg hhigh]

theorem Fetchable.fetchCheck_eq_none {pc : Word} (h : Fetchable pc) : fetchCheck hwParams pc = none := by
  obtain ⟨hstart, hend, heven⟩ := h
  exact fetchCheck_of_passed (by omega) (by omega) (by simp; omega)

/-! ### STEP in Running, by the outcome of the fetch -/

section
variable {c : Config} {run : Instr → State → Result} {s : State}

theorem stepBy_of_fetchFault {k : FaultKind} {a : Word} (hrun : s.runState = .running)
    (hf : fetchCheck c s.pc = some (k, a)) : stepBy c run s = .next (s.takeFault k s.pc 0 a) := by
  simp only [stepBy, hrun, fetchDecodeExecute, hf]

theorem stepBy_of_decoded {i : Instr} (hrun : s.runState = .running) (hf : fetchCheck c s.pc = none)
    (hdec : decodeWord (fetchWord c s.mem s.pc.toNat) = some i) : stepBy c run s = run i s.advance := by
  simp only [stepBy, hrun, fetchDecodeExecute, hf, hdec]

theorem stepBy_of_unknownOpcode (hrun : s.runState = .running) (hf : fetchCheck c s.pc = none)
    (hdec : decodeWord (fetchWord c s.mem s.pc.toNat) = none) :
    stepBy c run s = .next (s.advance.takeFault .unknownOpcode s.pc (fetchWord c s.mem s.pc.toNat) 0) := by
  simp only [stepBy, hrun, fetchDecodeExecute, hf, hdec]

end

theorem step_of_decoded {s : State} {i : Instr} (hrun : s.runState = .running) (hpc : Fetchable s.pc)
    (hdec : decodeWord s.opcodeAtPc = some i) : step s = exec i s.advance :=
  stepBy_of_decoded hrun hpc.fetchCheck_eq_none (s.fetchWord_hwParams_pc ▸ hdec)

theorem step_of_unknownOpcode {s : State} (hrun : s.runState = .running) (hpc : Fetchable s.pc)
    (hdec : decodeWord s.opcodeAtPc = none) :
    step s = .next (s.advance.takeFault .unknownOpcode s.pc s.opcodeAtPc 0) := by
  rw [← s.fetchWord_hwParams_pc] at hdec ⊢
  exact stepBy_of_unknownOpcode hrun hpc.fetchCheck_eq_none hdec

theorem faultTaken_takeFault (kind : FaultKind) (pc op addr : Word) (s : State) :
    FaultTaken kind pc op addr s (s.takeFault kind pc op addr) := by
  simp [FaultTaken, Unchanged, State.getV, State.byteAt]

end Sys2Proof.Machine
end

section
/-! PROOFS. The obligations of 30_encoding.md. -/

namespace Sys2Proof.Proofs

open Sys2Proof.Machine

/-- Settles O4: the decoder and the opcode map leave out the same words, each by `IllegalFields`, and the STEP that
fetches one is `step_of_unknownOpcode`. -/
theorem illegalWordsHalt : Obligations.IllegalWordsHalt := by
  refine ⟨fun op => ?_, fun op => ?_, fun s hrun hpc hdec => ?_⟩
  · rw [decodeWord_eq_none_iff, matchesNoRow_iff]
  · rw [decodeWord_eq_none_iff, illegalFields_iff_toNat]
  · exact ⟨_, step_of_unknownOpcode hrun hpc hdec, faultTaken_takeFault _ _ _ _ s.advance⟩

/-- Settles O7, check by check of the fetch in the order of R101. -/
theorem fetchChecksInOrder : Obligations.FetchChecksInOrder := by
  intro c s hrun
  unfold stepWith
  split
  case isTrue hout => exact stepBy_of_fetchFault hrun (fetchCheck_of_outside c hout)
  case isFalse hin =>
    split
    case isTrue hodd => exact stepBy_of_fetchFault hrun (fetchCheck_of_misaligned hin hodd)
    case isFalse heven =>
      split
      case isTrue hlow => exact stepBy_of_fetchFault hrun (fetchCheck_of_reserved hin heven hlow)
      case isFalse hhigh =>
        have hf := fetchCheck_of_passed hin heven hhigh
        rw [← fetchWord_eq]
        cases hdec : decodeWord (fetchWord c s.mem s.pc.toNat) with
        | some i =>
          simp only [hdec]
          exact stepBy_of_decoded hrun hf hdec
        | none =>
          simp only [hdec]
          exact stepBy_of_unknownOpcode hrun hf hdec

/-- Settles O6, by whether the opcode at PC decodes. -/
theorem stepExecutesDecodedInstruction : Obligations.StepExecutesDecodedInstruction :=
  fun _ hrun hpc => ⟨fun _ hdec => step_of_decoded hrun hpc hdec, fun hdec => step_of_unknownOpcode hrun hpc hdec⟩

end Sys2Proof.Proofs
end

section
/-! PROOFS. The decoder gives every instruction back from its word (30_encoding.md R81, R90). -/

namespace Sys2Proof

/-- One case for each row of R90: the fields of the row's format lead the decoder back to the row. -/
theorem decodeWord_encode (i : Instr) : decodeWord (encode i) = some i := by
  cases i
  case cls => rfl
  case ret => rfl
  all_goals simp [encode, decodeWord, decodeLo4Zero, decodeFamily8, decodeFamilyE, decodeFamilyF]

/-- R88, for family 0x5 and family 0x9 alike. -/
theorem decodeWord_wordXyn_eq_none {f : Nibble} (hf : f = 0x5 ∨ f = 0x9) (x y : Reg) {n : Nibble} (hn : n ≠ 0) :
    decodeWord (wordXyn f x y n) = none := by
  rw [decodeWord_eq_none_iff, IllegalFields, fieldFamily_wordXyn, fieldN_wordXyn]
  exact .inr (.inl ⟨hf, hn⟩)

end Sys2Proof
end

section
/-! PROOFS. Control transfer (40_control_flow.md R110 to R118): the frames of the writes to PC, SP and STACK, and what
a skip, RET and CALL answer in each case of their pseudocode. -/

namespace Sys2Proof.Machine

/-! ### Frames -/

theorem unchanged_set_pc (s : State) (a : Word) : Unchanged [.pc] s { s with pc := a } := by
  simp [Unchanged, State.getV, State.byteAt]

theorem unchanged_set_pc_sp (s : State) (a : Word) (n : Byte) : Unchanged [.pc, .sp] s { s with pc := a, sp := n } := by
  simp [Unchanged, State.getV, State.byteAt]

theorem unchanged_set_pc_sp_stack (s : State) (a : Word) (n : Byte) (st : Vector Word 16) :
    Unchanged [.pc, .sp, .stack] s { s with pc := a, sp := n, stack := st } := by
  simp [Unchanged, State.getV, State.byteAt]

theorem State.unchanged_skipIf (s : State) (b : Bool) : Unchanged [.pc] s (s.skipIf b) := by
  rw [s.skipIf_eq b]
  exact unchanged_set_pc s _

/-! ### Targets and skips -/

theorem zextAddr_toNat (nnn : Addr12) : (zextAddr nnn).toNat = nnn.toNat :=
  BitVec.toNat_setWidth_of_le (by decide)

theorem zextByte_toNat (b : Byte) : (zextByte b).toNat = b.toNat :=
  BitVec.toNat_setWidth_of_le (by decide)

/-- R117: the sum does not reach 2^16, so it is exact. -/
theorem zextAddr_add_zextByte_toNat (nnn : Addr12) (b : Byte) :
    (zextAddr nnn + zextByte b).toNat = nnn.toNat + b.toNat := by
  have hnnn := nnn.isLt
  have hb := b.isLt
  rw [BitVec.toNat_add, zextAddr_toNat, zextByte_toNat]
  omega

/-- R118 with the condition as a proposition, as the statements have it. -/
theorem State.skipIf_decide_pc (s : State) (p : Prop) [Decidable p] :
    (s.skipIf (decide p)).pc = if p then s.pc + 2 else s.pc := by
  simp [s.skipIf_pc]

/-! ### RET and CALL, by SP -/

theorem execRet_of_empty {s : State} (h : s.sp = 0) : execRet s = .next (s.raise .stackUnderflow .ret 0) :=
  if_pos h

theorem execRet_of_entry {s : State} {j : Fin 16} (h : s.sp.toNat = j.val + 1) :
    execRet s = .next { s with sp := s.sp - 1, pc := s.stack[j.val] } := by
  have hne : s.sp ≠ 0 := fun h0 => by simp [h0] at h
  have hj : s.sp.toNat - 1 = j.val := by omega
  rw [execRet, if_neg hne, dif_pos (hj ▸ j.isLt)]
  simp only [hj]

theorem execCall_of_full {s : State} (nnn : Addr12) (h : s.sp.toNat = 16) :
    execCall nnn s = .next (s.raise .stackOverflow (.call nnn) 0) :=
  if_pos h

theorem execCall_of_room {s : State} {j : Fin 16} (nnn : Addr12) (h : s.sp.toNat = j.val) :
    execCall nnn s = .next { s with stack := s.stack.set j.val s.pc, sp := s.sp + 1, pc := zextAddr nnn } := by
  have hne : ¬j.val = stackDepth := j.isLt.ne
  simp [execCall, h, hne]

theorem sp_sub_one_toNat {sp : Byte} {n : Nat} (h : sp.toNat = n + 1) : (sp - 1).toNat = n := by
  bv_omega

theorem sp_add_one_toNat {sp : Byte} {j : Fin 16} (h : sp.toNat = j.val) : (sp + 1).toNat = j.val + 1 := by
  bv_omega

end Sys2Proof.Machine
end

section
/-! PROOFS. The obligations of 40_control_flow.md. -/

namespace Sys2Proof.Proofs

open Sys2Proof.Machine

/-- Settles O11, by whether the stack is empty. -/
theorem retPopsTheStack : Obligations.RetPopsTheStack := by
  refine ⟨decodeWord_encode .ret, fun s => ⟨fun hempty => ?_, fun j hentry => ?_⟩⟩
  · exact ⟨_, execRet_of_empty hempty, faultTaken_takeFault _ _ _ _ s⟩
  · exact ⟨_, execRet_of_entry hentry, sp_sub_one_toNat hentry, rfl, unchanged_set_pc_sp s _ _⟩

/-- Settles O12: the 12-bit target is zero-extended. -/
theorem jumpSetsPc : Obligations.JumpSetsPc := fun nnn s =>
  ⟨decodeWord_encode (.jp nnn), _, rfl, zextAddr_toNat nnn, unchanged_set_pc s _⟩

/-- Settles O13, by whether the stack is full. -/
theorem callPushesReturnAddress : Obligations.CallPushesReturnAddress := by
  refine fun nnn s => ⟨decodeWord_encode (.call nnn), fun hfull => ?_, fun j hroom => ?_⟩
  · exact ⟨_, execCall_of_full nnn hfull, faultTaken_takeFault _ _ _ _ s⟩
  · have hother (k : Fin 16) (hk : k ≠ j) : (s.stack.set j.val s.pc)[k.val] = s.stack[k.val] :=
      Vector.getElem_set_ne j.isLt k.isLt fun hjk => hk (Fin.ext hjk.symm)
    exact ⟨_, execCall_of_room nnn hroom, Vector.getElem_set_self j.isLt, hother, sp_add_one_toNat hroom,
      zextAddr_toNat nnn, unchanged_set_pc_sp_stack s _ _ _⟩

/-- Settles O14, both skips by R118. -/
theorem skipsOnImmediate : Obligations.SkipsOnImmediate := fun x kk s =>
  ⟨decodeWord_encode (.seKk x kk), decodeWord_encode (.sneKk x kk),
    ⟨_, rfl, s.skipIf_decide_pc _, s.unchanged_skipIf _⟩, ⟨_, rfl, s.skipIf_decide_pc _, s.unchanged_skipIf _⟩⟩

/-- Settles O15, both skips by R118 and the illegal words by R88. -/
theorem skipsOnRegisters : Obligations.SkipsOnRegisters := fun x y s =>
  ⟨decodeWord_encode (.seVy x y), decodeWord_encode (.sneVy x y),
    fun _ hn => ⟨decodeWord_wordXyn_eq_none (.inl rfl) x y hn, decodeWord_wordXyn_eq_none (.inr rfl) x y hn⟩,
    ⟨_, rfl, s.skipIf_decide_pc _, s.unchanged_skipIf _⟩, ⟨_, rfl, s.skipIf_decide_pc _, s.unchanged_skipIf _⟩⟩

/-- Settles O16: 0xFFF + 0xFF is 0x10FE. -/
theorem jumpWithOffset : Obligations.JumpWithOffset := by
  intro nnn s
  have hsum := zextAddr_add_zextByte_toNat nnn (s.getV 0)
  have hmax : (zextAddr nnn + zextByte (s.getV 0)).toNat ≤ 0x10FE := by
    have hnnn := nnn.isLt
    have hv := (s.getV 0).isLt
    omega
  exact ⟨decodeWord_encode (.jpV0 nnn), _, rfl, hsum, hmax, unchanged_set_pc s _⟩

end Sys2Proof.Proofs
end

section
/-! PROOFS. The ALU (41_alu.md R130 to R143): the frames of the writes to V, each flag and result as arithmetic on the
operands, and what an instruction that ends in one of these writes answers. -/

namespace Sys2Proof.Machine

/-! ### Frames -/

theorem State.unchanged_setV (s : State) (x : Reg) (b : Byte) : Unchanged [.regs] s (s.setV x b) := by
  simp [Unchanged, State.byteAt]

theorem State.regsUnchangedBut_setV (s : State) (x : Reg) (b : Byte) : RegsUnchangedBut [x] s (s.setV x b) :=
  fun _ hr => s.getV_setV_of_ne b (List.ne_of_not_mem_cons hr)

theorem State.unchanged_setResultFlag (s : State) (x : Reg) (b f : Byte) :
    Unchanged [.regs] s (s.setResultFlag x b f) := by
  simp [Unchanged, State.byteAt]

theorem State.regsUnchangedBut_setResultFlag (s : State) (x : Reg) (b f : Byte) :
    RegsUnchangedBut [x, regF] s (s.setResultFlag x b f) := by
  intro r hr
  have hx : r ≠ x := List.ne_of_not_mem_cons hr
  have hF : r ≠ regF := List.ne_of_not_mem_cons (List.not_mem_of_not_mem_cons hr)
  rw [s.getV_setResultFlag, if_neg hF, if_neg hx]

/-! ### The result and the flag (R131) -/

theorem State.getV_regF_setResultFlag (s : State) (x : Reg) (b f : Byte) :
    (s.setResultFlag x b f).getV regF = f := by
  rw [s.getV_setResultFlag, if_pos rfl]

theorem State.getV_setResultFlag_of_ne (s : State) {x : Reg} (b f : Byte) (hx : x ≠ regF) :
    (s.setResultFlag x b f).getV x = b := by
  rw [s.getV_setResultFlag, if_neg hx, if_pos rfl]

theorem bool01_decide (p : Prop) [Decidable p] : bool01 (decide p) = if p then 1 else 0 := by
  simp [bool01]

theorem borrowFlag_of_underflow {c : Config} (h : c.borrowSense = .underflow) (a b : Byte) :
    borrowFlag c a b = if a.toNat < b.toNat then 1 else 0 := by
  simp only [borrowFlag, h, bool01_decide]

theorem borrowFlag_of_notBorrow {c : Config} (h : c.borrowSense = .notBorrow) (a b : Byte) :
    borrowFlag c a b = if a.toNat ≥ b.toNat then 1 else 0 := by
  simp only [borrowFlag, h, bool01_decide, ge_iff_le]

theorem shiftRightFlag_toNat (b : Byte) : (shiftRightFlag b).toNat = b.toNat % 2 := by
  revert b; decide

theorem shiftLeftFlag_toNat (b : Byte) : (shiftLeftFlag b).toNat = b.toNat / 128 := by
  revert b; decide

theorem sub_toNat_eq_emod (a b : Byte) : ((a - b).toNat : Int) = (a.toNat - b.toNat : Int) % 256 := by
  have ha := a.isLt
  have hb := b.isLt
  rw [BitVec.toNat_sub]
  omega

theorem shiftRight_one_toNat (b : Byte) : (b >>> 1).toNat = b.toNat / 2 := by
  rw [BitVec.toNat_ushiftRight, Nat.shiftRight_eq_div_pow]

theorem shiftLeft_one_toNat (b : Byte) : (b <<< 1).toNat = b.toNat * 2 % 256 := by
  rw [BitVec.toNat_shiftLeft, Nat.shiftLeft_eq]

theorem shiftOperand_of_vy {c : Config} (h : c.shiftSrc = .vy) (vx vy : Byte) : shiftOperand c vx vy = vy := by
  simp only [shiftOperand, h]

/-! ### What the instructions answer, by the write they end in -/

theorem next_setV (s : State) (x : Reg) (b : Byte) :
    ∃ t, (.next (s.setV x b) : Result) = .next t ∧ t.getV x = b ∧ RegsUnchangedBut [x] s t ∧ Unchanged [.regs] s t :=
  ⟨_, rfl, s.getV_setV_same x b, s.regsUnchangedBut_setV x b, s.unchanged_setV x b⟩

/-- R135 to R137 by LOGIC_VF_RESET: with it the write is a result and a flag, without it the result alone. -/
theorem next_setLogic (c : Config) (s : State) (x : Reg) (r : Byte) :
    ∃ t, (.next (s.setLogic c x r) : Result) = .next t ∧
      t.getV regF = (if c.logicVfReset = true then 0 else if x = regF then r else s.getV regF) ∧
      (x ≠ regF → t.getV x = r) ∧ RegsUnchangedBut [x, regF] s t ∧ Unchanged [.regs] s t := by
  refine ⟨_, rfl, ?_⟩
  unfold State.setLogic
  split
  case isTrue =>
    exact ⟨s.getV_regF_setResultFlag x r 0, s.getV_setResultFlag_of_ne r 0, s.regsUnchangedBut_setResultFlag x r 0,
      s.unchanged_setResultFlag x r 0⟩
  case isFalse =>
    have hflag : (s.setV x r).getV regF = if x = regF then r else s.getV regF := by
      simp only [s.getV_setV, eq_comm]
    exact ⟨hflag, fun _ => s.getV_setV_same x r, fun _ hq => s.getV_setV_of_ne r (List.ne_of_not_mem_cons hq),
      s.unchanged_setV x r⟩

/-- R139 and R141 in either borrow sense, which fixes the flag. -/
theorem next_setResultFlag_sub (s : State) (x : Reg) (a b : Byte) {flag vf : Byte} (hflag : flag = vf) :
    ∃ t, (.next (s.setResultFlag x (a - b) flag) : Result) = .next t ∧ t.getV regF = vf ∧
      (x ≠ regF → ((t.getV x).toNat : Int) = (a.toNat - b.toNat : Int) % 256) ∧
      RegsUnchangedBut [x, regF] s t ∧ Unchanged [.regs] s t := by
  refine ⟨_, rfl, ?_, fun hx => ?_, s.regsUnchangedBut_setResultFlag x _ _, s.unchanged_setResultFlag x _ _⟩
  · rw [s.getV_regF_setResultFlag, hflag]
  · rw [s.getV_setResultFlag_of_ne _ _ hx, sub_toNat_eq_emod]

/-- R140 with the operand that SHIFT_SRC selects. -/
theorem shrVyWith_answers {c : Config} {x y : Reg} {s : State} {b : Byte}
    (hb : shiftOperand c (s.getV x) (s.getV y) = b) :
    ∃ t, shrVyWith c x y s = .next t ∧ (t.getV regF).toNat = b.toNat % 2 ∧
      (x ≠ regF → (t.getV x).toNat = b.toNat / 2) ∧ RegsUnchangedBut [x, regF] s t ∧ Unchanged [.regs] s t := by
  subst hb
  refine ⟨_, rfl, ?_, fun hx => ?_, s.regsUnchangedBut_setResultFlag x _ _, s.unchanged_setResultFlag x _ _⟩
  · rw [s.getV_regF_setResultFlag, shiftRightFlag_toNat]
  · rw [s.getV_setResultFlag_of_ne _ _ hx, shiftRight_one_toNat]

/-- R142 with the operand that SHIFT_SRC selects. -/
theorem shlVyWith_answers {c : Config} {x y : Reg} {s : State} {b : Byte}
    (hb : shiftOperand c (s.getV x) (s.getV y) = b) :
    ∃ t, shlVyWith c x y s = .next t ∧ (t.getV regF).toNat = b.toNat / 128 ∧
      (x ≠ regF → (t.getV x).toNat = b.toNat * 2 % 256) ∧ RegsUnchangedBut [x, regF] s t ∧ Unchanged [.regs] s t := by
  subst hb
  refine ⟨_, rfl, ?_, fun hx => ?_, s.regsUnchangedBut_setResultFlag x _ _, s.unchanged_setResultFlag x _ _⟩
  · rw [s.getV_regF_setResultFlag, shiftLeftFlag_toNat]
  · rw [s.getV_setResultFlag_of_ne _ _ hx, shiftLeft_one_toNat]

/-- R143 for any draw: a register write, and the model's own draw counter. -/
theorem rndOfDraw_writes (r : Byte) (x : Reg) (kk : Byte) (s : State) :
    (rndOfDraw r x kk s).getV x = r &&& kk ∧ RegsUnchangedBut [x] s (rndOfDraw r x kk s) ∧
      Unchanged [.regs, .draws] s (rndOfDraw r x kk s) :=
  ⟨s.getV_setV_same x _, s.regsUnchangedBut_setV x _, by simp [Unchanged, State.byteAt]⟩

end Sys2Proof.Machine
end

section
/-! PROOFS. The obligations of 41_alu.md. -/

namespace Sys2Proof.Proofs

open Sys2Proof.Machine

/-- Settles O18: both loads are one register write. -/
theorem registerLoads : Obligations.RegisterLoads := fun x y kk s =>
  ⟨decodeWord_encode (.ldKk x kk), decodeWord_encode (.ldVy x y), next_setV s x kk, next_setV s x (s.getV y)⟩

/-- Settles O19: the register write of the sum. -/
theorem addImmediateWrapsWithoutFlag : Obligations.AddImmediateWrapsWithoutFlag := by
  refine fun x kk s => ⟨decodeWord_encode (.addKk x kk), _, rfl, ?_, s.regsUnchangedBut_setV x _, s.unchanged_setV x _⟩
  rw [s.getV_setV_same, BitVec.toNat_add]

/-- Settles O20: with LOGIC_VF_RESET off, as on this hardware, the result is the only write. -/
theorem logicOperations : Obligations.LogicOperations := by
  refine fun x y s => ⟨decodeWord_encode (.orVy x y), decodeWord_encode (.andVy x y), decodeWord_encode (.xorVy x y),
    next_setV s x _, next_setV s x _, next_setV s x _, ?_⟩
  rintro c i r (⟨rfl, rfl⟩ | ⟨rfl, rfl⟩ | ⟨rfl, rfl⟩) <;> exact next_setLogic c s x _

/-- Settles O21: the sum and its carry. -/
theorem addSetsCarry : Obligations.AddSetsCarry := by
  refine fun x y s => ⟨decodeWord_encode (.addVy x y), _, rfl, ?_, fun hx => ?_, s.regsUnchangedBut_setResultFlag x _ _,
    s.unchanged_setResultFlag x _ _⟩
  · rw [s.getV_regF_setResultFlag]
    exact bool01_decide _
  · rw [s.getV_setResultFlag_of_ne _ _ hx, BitVec.toNat_add]

/-- Settles O22: SUBN is SUB with the operands exchanged, and BORROW_SENSE fixes the flag of both. -/
theorem subtractSetsBorrow : Obligations.SubtractSetsBorrow := fun x y s =>
  ⟨decodeWord_encode (.subVy x y), decodeWord_encode (.subnVy x y),
    next_setResultFlag_sub s x _ _ (borrowFlag_of_underflow rfl _ _),
    next_setResultFlag_sub s x _ _ (borrowFlag_of_underflow rfl _ _),
    fun _ hc => ⟨next_setResultFlag_sub s x _ _ (borrowFlag_of_notBorrow hc _ _),
      next_setResultFlag_sub s x _ _ (borrowFlag_of_notBorrow hc _ _)⟩⟩

/-- Settles O23: on this hardware the operand is V[x], with SHIFT_SRC = vy it is V[y]. -/
theorem shiftsByOne : Obligations.ShiftsByOne := fun x y _ =>
  ⟨decodeWord_encode (.shrVy x y), decodeWord_encode (.shlVy x y),
    shrVyWith_answers (c := hwParams) rfl, shlVyWith_answers (c := hwParams) rfl,
    fun _ hc => ⟨shrVyWith_answers (shiftOperand_of_vy hc _ _), shlVyWith_answers (shiftOperand_of_vy hc _ _)⟩⟩

/-- Settles O24: the machine's draw is one of the draws that `rndOfDraw_writes` speaks of. -/
theorem randomByteIsMasked : Obligations.RandomByteIsMasked := fun x kk s =>
  ⟨decodeWord_encode (.rnd x kk), ⟨Config.randByte s.draws, _, rfl, rfl, rndOfDraw_writes _ x kk s⟩,
    fun r => rndOfDraw_writes r x kk s⟩

end Sys2Proof.Proofs
end

section
/-! PROOFS. The index register and memory (42_index_memory.md R160 to R165): the frames of the writes to I, MEM and V0
to Vx, the access checks by their outcome, and what the stores and the load answer once their check has passed. -/

namespace Sys2Proof.Machine

/-! ### Frames -/

theorem unchanged_set_index (s : State) (i : Word) : Unchanged [.index] s { s with i := i } := by
  simp [Unchanged, State.getV, State.byteAt]

theorem unchanged_set_mem (s : State) (m : Memory) : Unchanged [.mem] s { s with mem := m } := by
  simp [Unchanged, State.getV]

theorem unchanged_set_mem_index (s : State) (m : Memory) (i : Word) :
    Unchanged [.mem, .index] s { s with mem := m, i := i } := by
  simp [Unchanged, State.getV]

theorem State.unchanged_loadRegs (s : State) (c : Config) (a : Nat) (x : Reg) :
    Unchanged [.regs] s (s.loadRegs c a x) := by
  simp [Unchanged, State.byteAt]

theorem State.unchanged_loadRegs_set_index (s : State) (c : Config) (a : Nat) (x : Reg) (i : Word) :
    Unchanged [.regs, .index] s { s.loadRegs c a x with i := i } := by
  simp [Unchanged, State.byteAt]

/-! ### The values written to I -/

theorem index_add_zextByte_toNat (i : Word) (b : Byte) : (i + zextByte b).toNat = (i.toNat + b.toNat) % 65536 := by
  rw [BitVec.toNat_add, zextByte_toNat]

theorem lowNibble_val (b : Byte) : (lowNibble b).val = b.toNat % 16 := by
  show (b.extractLsb' 0 4).toNat = _
  rw [BitVec.extractLsb'_toNat, Nat.shiftRight_zero]

/-- R52 places the font below PROGRAM_START and with it inside memory. -/
theorem Config.fontBase_add_fontSize_le {c : Config} (h : c.wf = true) : c.fontBase.toNat + fontSize ≤ memSize := by
  simp only [Config.wf, Config.fontFits, Config.programAreaFits, Bool.and_eq_true, decide_eq_true_eq] at h
  exact h.1.trans h.2

/-- R162: the glyphs lie inside memory, so the sum does not wrap. -/
theorem glyphAddr_toNat {c : Config} (h : c.wf = true) (v : Byte) :
    (glyphAddr c v).toNat = c.fontBase.toNat + 5 * (v.toNat % 16) := by
  have hfont : c.fontBase.toNat + 80 ≤ 4096 := Config.fontBase_add_fontSize_le h
  rw [glyphAddr, BitVec.toNat_add, BitVec.toNat_ofNat, lowNibble_val]
  omega

theorem indexAfterBulk_of_unchanged {c : Config} (h : c.lsIncrement = .unchanged) (i : Word) (x : Reg) :
    indexAfterBulk c i x = i := by
  simp only [indexAfterBulk, h]

theorem indexAfterBulk_of_xPlus1_toNat {c : Config} (h : c.lsIncrement = .xPlus1) (i : Word) (x : Reg) :
    (indexAfterBulk c i x).toNat = (i.toNat + x.val + 1) % 65536 := by
  simp only [indexAfterBulk, h, BitVec.toNat_add, BitVec.toNat_ofNat]
  omega

/-! ### The access checks, by outcome -/

theorem firstOutside_eq_ofNat_max (a : Word) : firstOutside a = BitVec.ofNat 16 (max a.toNat 0x1000) := by
  rw [← firstOutside_toNat, BitVec.ofNat_toNat, BitVec.setWidth_eq]

theorem checkRead_of_outside {a : Word} {m : Nat} (h : memSize < a.toNat + m) :
    checkRead a m = some (.memoryOutOfBounds, BitVec.ofNat 16 (max a.toNat 0x1000)) := by
  rw [checkRead, if_pos h, firstOutside_eq_ofNat_max]

theorem checkRead_of_inside {a : Word} {m : Nat} (h : a.toNat + m ≤ memSize) : checkRead a m = none := by
  rw [checkRead_eq, if_pos h]

theorem checkWrite_of_outside (c : Config) {a : Word} {m : Nat} (h : memSize < a.toNat + m) :
    checkWrite c a m = some (.memoryOutOfBounds, BitVec.ofNat 16 (max a.toNat 0x1000)) := by
  rw [checkWrite_eq, if_pos h, firstOutside_eq_ofNat_max]

theorem checkWrite_of_reserved {c : Config} {a : Word} {m : Nat} (hin : a.toNat + m ≤ memSize)
    (hlow : c.guardReserved = true ∧ a.toNat < c.programStart.toNat) :
    checkWrite c a m = some (.reservedRegion, a) := by
  rw [checkWrite_eq, if_neg (Nat.not_lt.mpr hin), if_pos hlow]

theorem checkWrite_of_passed {c : Config} {a : Word} {m : Nat} (hin : a.toNat + m ≤ memSize)
    (hhigh : c.guardReserved = true → c.programStart.toNat ≤ a.toNat) : checkWrite c a m = none := by
  have hlow : ¬(c.guardReserved = true ∧ a.toNat < c.programStart.toNat) := fun h => Nat.not_lt.mpr (hhigh h.1) h.2
  rw [checkWrite_eq, if_neg (Nat.not_lt.mpr hin), if_neg hlow]

/-- R59: a failed check takes the fault and leaves the effect out. -/
theorem guarded_faultTaken {check : Option (FaultKind × Word)} {kind : FaultKind} {addr : Word}
    (h : check = some (kind, addr)) (i : Instr) (s effect : State) :
    ∃ t, guarded check i s effect = .next t ∧ FaultTaken kind (s.pc - 2) (encode i) addr s t :=
  ⟨s.raise kind i addr, by rw [h]; rfl, faultTaken_takeFault _ _ _ _ s⟩

theorem guarded_of_passed {check : Option (FaultKind × Word)} (h : check = none) (i : Instr) (s effect : State) :
    guarded check i s effect = .next effect := by
  rw [h]; rfl

/-! ### Reads after a store -/

section
variable {c : Config} {m : Memory} {a : Nat} {bs : List Byte}

theorem Memory.read_writeBytes_at (h : Memory.wf c m = true) (ha : a + bs.length ≤ memSize) {j : Nat}
    (hj : j < bs.length) : Memory.read c (Memory.writeBytes c m a bs) (a + j) = bs[j] := by
  rw [Memory.read_writeBytes bs h ha, if_pos (by omega), Nat.add_sub_cancel_left, List.getD_eq_getElem _ _ hj]

theorem Memory.read_writeBytes_outside (h : Memory.wf c m = true) (ha : a + bs.length ≤ memSize) {k : Nat}
    (hk : k < a ∨ a + bs.length ≤ k) : Memory.read c (Memory.writeBytes c m a bs) k = Memory.read c m k := by
  rw [Memory.read_writeBytes bs h ha, if_neg (by omega)]

end

theorem State.lowRegs_length (s : State) (x : Reg) : (s.lowRegs x).length = x.val + 1 := by
  have hx := x.isLt
  simp only [State.lowRegs, List.length_take, Vector.length_toList]
  omega

theorem State.lowRegs_getElem (s : State) {x j : Reg} (h : j.val < (s.lowRegs x).length) :
    (s.lowRegs x)[j.val] = s.getV j := by
  simp [State.lowRegs, State.getV]

/-! ### What the instructions answer, once the check has passed -/

section
variable {c : Config} {x : Reg} {s : State}

/-- R163: hundreds, tens and ones at I, I + 1 and I + 2. -/
theorem ldBVxWith_answers (hmem : Memory.wf c s.mem = true) (hin : s.i.toNat + 2 ≤ 0xFFF)
    (hhigh : c.guardReserved = true → c.programStart.toNat ≤ s.i.toNat) :
    ∃ t, ldBVxWith c x s = .next t ∧
      (Memory.read c t.mem s.i.toNat).toNat = (s.getV x).toNat / 100 ∧
      (Memory.read c t.mem (s.i.toNat + 1)).toNat = (s.getV x).toNat / 10 % 10 ∧
      (Memory.read c t.mem (s.i.toNat + 2)).toNat = (s.getV x).toNat % 10 ∧
      (∀ a, a < s.i.toNat ∨ s.i.toNat + 2 < a → Memory.read c t.mem a = Memory.read c s.mem a) ∧
      Unchanged [.mem] s t := by
  have hfit : s.i.toNat + (decimalDigits (s.getV x)).length ≤ memSize := Nat.succ_le_succ hin
  have hdigit {j d : Nat} (hj : j < 3) (hd : d < 256) (hget : (decimalDigits (s.getV x))[j] = BitVec.ofNat 8 d) :
      (Memory.read c (Memory.writeBytes c s.mem s.i.toNat (decimalDigits (s.getV x))) (s.i.toNat + j)).toNat = d := by
    rw [Memory.read_writeBytes_at hmem hfit hj, hget]
    exact Nat.mod_eq_of_lt hd
  have hv := (s.getV x).isLt
  exact ⟨_, guarded_of_passed (checkWrite_of_passed hfit hhigh) _ s _,
    hdigit (j := 0) (by decide) (by omega) rfl, hdigit (by decide) (by omega) rfl, hdigit (by decide) (by omega) rfl,
    fun _ ha => Memory.read_writeBytes_outside hmem hfit ha, unchanged_set_mem s _⟩

theorem ldMemVxWith_of_passed (hin : s.i.toNat + x.val ≤ 0xFFF)
    (hhigh : c.guardReserved = true → c.programStart.toNat ≤ s.i.toNat) :
    ldMemVxWith c x s = .next { s with
      mem := Memory.writeBytes c s.mem s.i.toNat (s.lowRegs x), i := indexAfterBulk c s.i x } :=
  guarded_of_passed (checkWrite_of_passed (Nat.succ_le_succ hin) hhigh) _ s _

/-- R164: the bytes of memory after the store of V0 to Vx at I. -/
theorem State.read_writeBytes_lowRegs (hmem : Memory.wf c s.mem = true) (hin : s.i.toNat + x.val ≤ 0xFFF) :
    (∀ j : Reg, j ≤ x →
      Memory.read c (Memory.writeBytes c s.mem s.i.toNat (s.lowRegs x)) (s.i.toNat + j.val) = s.getV j) ∧
    (∀ a, a < s.i.toNat ∨ s.i.toNat + x.val < a →
      Memory.read c (Memory.writeBytes c s.mem s.i.toNat (s.lowRegs x)) a = Memory.read c s.mem a) := by
  have hlen := s.lowRegs_length x
  have hfit : s.i.toNat + (s.lowRegs x).length ≤ memSize := hlen ▸ Nat.succ_le_succ hin
  refine ⟨fun j hj => ?_, fun a ha => Memory.read_writeBytes_outside hmem hfit (by omega)⟩
  have hj' : j.val < (s.lowRegs x).length := hlen ▸ Nat.lt_succ_of_le hj
  rw [Memory.read_writeBytes_at hmem hfit hj', s.lowRegs_getElem]

/-- R164 with LS_INCREMENT = none, as on this hardware. -/
theorem ldMemVxWith_answers_of_unchanged (hls : c.lsIncrement = .unchanged) (hin : s.i.toNat + x.val ≤ 0xFFF)
    (hhigh : c.guardReserved = true → c.programStart.toNat ≤ s.i.toNat) (hmem : Memory.wf c s.mem = true) :
    ∃ t, ldMemVxWith c x s = .next t ∧
      (∀ j : Reg, j ≤ x → Memory.read c t.mem (s.i.toNat + j.val) = s.getV j) ∧
      (∀ a, a < s.i.toNat ∨ s.i.toNat + x.val < a → Memory.read c t.mem a = Memory.read c s.mem a) ∧
      Unchanged [.mem] s t := by
  obtain ⟨hstored, hother⟩ := State.read_writeBytes_lowRegs hmem hin
  have hnext := ldMemVxWith_of_passed hin hhigh
  rw [indexAfterBulk_of_unchanged hls] at hnext
  exact ⟨_, hnext, hstored, hother, unchanged_set_mem s _⟩

theorem ldVxMemWith_of_passed (c : Config) (hin : s.i.toNat + x.val ≤ 0xFFF) :
    ldVxMemWith c x s = .next { s.loadRegs c s.i.toNat x with i := indexAfterBulk c s.i x } :=
  guarded_of_passed (checkRead_of_inside (Nat.succ_le_succ hin)) _ s _

end

end Sys2Proof.Machine
end

section
/-! PROOFS. The obligations of 42_index_memory.md. -/

namespace Sys2Proof.Proofs

open Sys2Proof.Machine

/-- Settles O27, by the outcome of CheckWrite; this hardware is the case where GUARD_RESERVED is on. -/
theorem decimalDigitsStored : Obligations.DecimalDigitsStored := by
  refine fun x s => ⟨decodeWord_encode (.ldBVx x), fun hout => ?_, fun hlow => ?_, fun hmem hhigh hin => ?_,
    fun c hguard hmem hin => ?_⟩
  · exact guarded_faultTaken (checkWrite_of_outside hwParams (Nat.succ_lt_succ hout)) (.ldBVx x) s _
  · have hin : s.i.toNat + 3 ≤ 4096 := by omega
    exact guarded_faultTaken (checkWrite_of_reserved (c := hwParams) hin ⟨rfl, hlow⟩) (.ldBVx x) s _
  · exact ldBVxWith_answers (c := hwParams) hmem hin fun _ => hhigh
  · exact ldBVxWith_answers hmem hin fun h => absurd (hguard ▸ h) Bool.false_ne_true

/-- Settles O28, by the outcome of CheckWrite and by LS_INCREMENT. -/
theorem bulkStore : Obligations.BulkStore := by
  refine fun x s => ⟨decodeWord_encode (.ldMemVx x), fun hout => ?_, fun hlow => ?_, fun hmem hhigh hin => ?_,
    fun c hls hin hhigh hmem => ?_, fun c hls hin hhigh hmem => ?_⟩
  · exact guarded_faultTaken (checkWrite_of_outside hwParams (Nat.succ_lt_succ hout)) (.ldMemVx x) s _
  · have hin : s.i.toNat + (x.val + 1) ≤ 4096 := by omega
    exact guarded_faultTaken (checkWrite_of_reserved (c := hwParams) hin ⟨rfl, hlow⟩) (.ldMemVx x) s _
  · exact ldMemVxWith_answers_of_unchanged (c := hwParams) rfl hin (fun _ => hhigh) hmem
  · exact ldMemVxWith_answers_of_unchanged hls hin hhigh hmem
  · obtain ⟨hstored, hother⟩ := State.read_writeBytes_lowRegs hmem hin
    exact ⟨_, ldMemVxWith_of_passed hin hhigh, indexAfterBulk_of_xPlus1_toNat hls s.i x, hstored, hother,
      unchanged_set_mem_index s _ _⟩

/-- Settles O29, by the outcome of CheckRead, which has no reserved area, and by LS_INCREMENT. -/
theorem bulkLoad : Obligations.BulkLoad := by
  refine fun x s => ⟨decodeWord_encode (.ldVxMem x), fun hout => ?_, fun hin => ?_, fun c hls hin => ?_⟩
  · exact guarded_faultTaken (checkRead_of_outside (Nat.succ_lt_succ hout)) (.ldVxMem x) s _
  · exact ⟨_, ldVxMemWith_of_passed hwParams hin, s.getV_loadRegs hwParams s.i.toNat x,
      s.unchanged_loadRegs hwParams s.i.toNat x⟩
  · exact ⟨_, ldVxMemWith_of_passed c hin, indexAfterBulk_of_xPlus1_toNat hls s.i x,
      s.getV_loadRegs c s.i.toNat x, s.unchanged_loadRegs_set_index c s.i.toNat x _⟩

/-- Settles O25: nnn is zero-extended, and the sum is one of 16 bits. -/
theorem indexLoadsAndAdds : Obligations.IndexLoadsAndAdds := fun nnn x s =>
  ⟨decodeWord_encode (.ldI nnn), decodeWord_encode (.addIVx x),
    ⟨_, rfl, zextAddr_toNat nnn, unchanged_set_index s _⟩,
    ⟨_, rfl, index_add_zextByte_toNat s.i (s.getV x), unchanged_set_index s _⟩⟩

/-- Settles O26: this hardware's parameters are one legal choice. -/
theorem indexPointsAtGlyph : Obligations.IndexPointsAtGlyph := fun x s =>
  ⟨decodeWord_encode (.ldFVx x),
    ⟨_, rfl, glyphAddr_toNat hwParams_wf (s.getV x), unchanged_set_index s _⟩,
    fun _ hc => ⟨_, rfl, glyphAddr_toNat hc (s.getV x), unchanged_set_index s _⟩⟩

end Sys2Proof.Proofs
end

section
/-! PROOFS. The display (43_display.md R180 to R184): which pixels a sprite visits, that it visits each once, and from
it what the XOR blit leaves on the display and when it reports a collision. -/

namespace Sys2Proof.Machine

/-! ### Frames -/

theorem unchanged_set_disp (s : State) (d : Display) : Unchanged [.disp] s { s with disp := d } := by
  simp [Unchanged, State.getV, State.byteAt]

theorem unchanged_set_disp_setV (s : State) (d : Display) (r : Reg) (b : Byte) :
    Unchanged [.regs, .disp] s (({ s with disp := d } : State).setV r b) := by
  simp [Unchanged, State.byteAt]

/-! ### The pixels a sprite visits (R180, R183) -/

section
variable {ox oy : Byte}

theorem mem_rowPixels {r : Nat} {row : Byte} {py : Fin 32} {px : Fin 64} :
    (py, px) ∈ rowPixels ox oy r row ↔
      ∃ j, j < 8 ∧ row.getLsbD (7 - j) = true ∧ py.val = (oy.toNat + r) % 32 ∧ px.val = (ox.toNat + j) % 64 := by
  simp only [rowPixels, List.mem_map, List.mem_filter, List.mem_range, Prod.mk.injEq, Fin.ext_iff, Fin.val_ofNat,
    and_assoc, eq_comm]

theorem mem_spritePixels {r : Nat} {rows : List Byte} {py : Fin 32} {px : Fin 64} :
    (py, px) ∈ spritePixels ox oy r rows ↔
      ∃ k j, k < rows.length ∧ j < 8 ∧ (rows.getD k 0).getLsbD (7 - j) = true ∧
        py.val = (oy.toNat + (r + k)) % 32 ∧ px.val = (ox.toNat + j) % 64 := by
  induction rows generalizing r with
  | nil => simp [spritePixels]
  | cons row rows ih =>
    rw [spritePixels, List.mem_append, mem_rowPixels, ih]
    conv_rhs => rw [← Nat.or_exists_add_one]
    simp [Nat.add_assoc, Nat.add_comm 1]

theorem mem_spritePixels_iff_spriteBit {rows : List Byte} {py : Fin 32} {px : Fin 64} :
    (py, px) ∈ spritePixels ox oy 0 rows ↔ SpriteBit ox oy rows py px := by
  simp only [mem_spritePixels, Nat.zero_add, SpriteBit]

/-- The 8 columns of a row are fewer than the display's 64, so wrapping brings no two together. -/
theorem nodup_rowPixels (r : Nat) (row : Byte) : (rowPixels ox oy r row).Nodup := by
  refine List.Nodup.map_on (fun j hj k hk h => ?_) (List.nodup_range.filter _)
  have hj' : j < 8 := List.mem_range.mp (List.mem_of_mem_filter hj)
  have hk' : k < 8 := List.mem_range.mp (List.mem_of_mem_filter hk)
  have hpx : (ox.toNat + j) % 64 = (ox.toNat + k) % 64 := congrArg (fun p : Fin 32 × Fin 64 => p.2.val) h
  omega

/-- A sprite of at most the display's 32 rows visits no pixel twice. -/
theorem nodup_spritePixels {r : Nat} {rows : List Byte} (hlen : rows.length ≤ 32) :
    (spritePixels ox oy r rows).Nodup := by
  induction rows generalizing r with
  | nil => exact List.nodup_nil
  | cons row rows ih =>
    rw [List.length_cons] at hlen
    refine (nodup_rowPixels r row).append (ih (by omega)) fun ⟨py, px⟩ hrow hrest => ?_
    obtain ⟨_, _, _, hpy, _⟩ := mem_rowPixels.mp hrow
    obtain ⟨k, _, hk, _, _, hpy', _⟩ := mem_spritePixels.mp hrest
    omega

end

/-! ### The blit (R182, R184) -/

theorem blitPixel_pixel (acc : Display × Bool) (p : Fin 32 × Fin 64) (py : Fin 32) (px : Fin 64) :
    (blitPixel acc p).1.pixel py px = (acc.1.pixel py px ^^ decide ((py, px) = p)) := by
  simp only [blitPixel, Display.pixel_flip, Prod.ext_iff]
  split <;> simp [*]

/-- Visiting a list of different pixels flips exactly those of the list. -/
theorem foldl_blitPixel_pixel {ps : List (Fin 32 × Fin 64)} (hps : ps.Nodup) (acc : Display × Bool)
    (py : Fin 32) (px : Fin 64) :
    (ps.foldl blitPixel acc).1.pixel py px = (acc.1.pixel py px ^^ decide ((py, px) ∈ ps)) := by
  induction ps generalizing acc with
  | nil => simp
  | cons p ps ih =>
    obtain ⟨hp, hps⟩ := List.nodup_cons.mp hps
    rw [List.foldl_cons, ih hps, blitPixel_pixel]
    by_cases h : (py, px) = p
    · simp [h, hp]
    · simp [h]

/-- Visiting a list of different pixels sees each as it was before any of them was flipped. -/
theorem foldl_blitPixel_collided {ps : List (Fin 32 × Fin 64)} (hps : ps.Nodup) (acc : Display × Bool) :
    (ps.foldl blitPixel acc).2 = true ↔ acc.2 = true ∨ ∃ q ∈ ps, acc.1.pixel q.1 q.2 = true := by
  induction ps generalizing acc with
  | nil => simp
  | cons p ps ih =>
    obtain ⟨hp, hps⟩ := List.nodup_cons.mp hps
    have hrest : ∀ q ∈ ps, (blitPixel acc p).1.pixel q.1 q.2 = acc.1.pixel q.1 q.2 := fun q hq => by
      have hne : q ≠ p := ne_of_mem_of_not_mem hq hp
      simp [blitPixel_pixel, hne]
    have hps' : (∃ q ∈ ps, (blitPixel acc p).1.pixel q.1 q.2 = true) ↔ ∃ q ∈ ps, acc.1.pixel q.1 q.2 = true :=
      exists_congr fun q => and_congr_right fun hq => by rw [hrest q hq]
    rw [List.foldl_cons, ih hps, hps', List.exists_mem_cons_iff, blitPixel, Bool.or_eq_true, or_assoc]

section
variable {d : Display} {ox oy : Byte} {rows : List Byte}

theorem blit_pixel (hlen : rows.length ≤ 32) (py : Fin 32) (px : Fin 64) :
    (blit d ox oy rows).1.pixel py px = true ↔
      (d.pixel py px = true ∧ ¬SpriteBit ox oy rows py px) ∨ (d.pixel py px = false ∧ SpriteBit ox oy rows py px) := by
  rw [blit, foldl_blitPixel_pixel (nodup_spritePixels hlen), ← mem_spritePixels_iff_spriteBit]
  cases d.pixel py px <;> simp

theorem blit_collided (hlen : rows.length ≤ 32) :
    (blit d ox oy rows).2 = true ↔
      ∃ py px, d.pixel py px = true ∧ (blit d ox oy rows).1.pixel py px = false := by
  simp only [blit, foldl_blitPixel_collided (nodup_spritePixels hlen), foldl_blitPixel_pixel (nodup_spritePixels hlen),
    Prod.exists, Bool.false_eq_true, false_or]
  refine exists_congr fun py => exists_congr fun px => ?_
  cases d.pixel py px <;> simp

theorem blit_collided_eq_false (hlen : rows.length ≤ 32)
    (h : ∀ py px, d.pixel py px = true → (blit d ox oy rows).1.pixel py px = true) :
    (blit d ox oy rows).2 = false := by
  refine Bool.eq_false_iff.mpr fun hcol => ?_
  obtain ⟨py, px, hbefore, hafter⟩ := (blit_collided hlen).mp hcol
  exact absurd (h py px hbefore) (Bool.eq_false_iff.mp hafter)

end

/-! ### The check of DRW (R182, 20_memory.md R57) -/

theorem checkSprite_of_outside {i : Word} {n : Nibble} (hn : n ≠ 0) (hout : 0xFFF < i.toNat + n.toNat - 1) :
    checkSprite i n = some (.memoryOutOfBounds, BitVec.ofNat 16 (max i.toNat 0x1000)) := by
  rw [checkSprite, if_neg hn, checkRead_of_outside (show 4096 < _ by omega)]

theorem checkSprite_of_passed {i : Word} {n : Nibble} (h : n = 0 ∨ i.toNat + n.toNat - 1 ≤ 0xFFF) :
    checkSprite i n = none := by
  rw [checkSprite]
  split
  case isTrue => rfl
  case isFalse hn => exact checkRead_of_inside (show _ ≤ 4096 by have := h.resolve_left hn; omega)

theorem drwWith_of_passed (c : Config) (x y : Reg) {n : Nibble} {s : State}
    (h : n = 0 ∨ s.i.toNat + n.toNat - 1 ≤ 0xFFF) :
    drwWith c x y n s =
      let drawn := blit s.disp (s.getV x) (s.getV y) (Memory.readBytes c s.mem s.i.toNat n.toNat)
      .next (({ s with disp := drawn.1 } : State).setV regF (bool01 drawn.2)) :=
  guarded_of_passed (checkSprite_of_passed h) _ s _

end Sys2Proof.Machine
end

section
/-! PROOFS. The obligations of 43_display.md. -/

namespace Sys2Proof.Proofs

open Sys2Proof.Machine

/-- Settles O33, by the outcome of CheckRead: past it the display is the blit's and VF its collision flag. -/
theorem drawXorsTheSprite : Obligations.DrawXorsTheSprite := by
  refine fun x y n s => ⟨decodeWord_encode (.drw x y n), fun hn hout => ?_, fun hin => ?_⟩
  · exact guarded_faultTaken (checkSprite_of_outside hn hout) (.drw x y n) s _
  · have hlen : (Memory.readBytes hwParams s.mem s.i.toNat n.toNat).length ≤ 32 := by
      rw [Memory.readBytes_length]; omega
    refine ⟨_, drwWith_of_passed hwParams x y hin, fun py px => blit_pixel hlen py px, fun hcol => ?_, fun hnone => ?_,
      State.regsUnchangedBut_setV _ regF _, unchanged_set_disp_setV s _ regF _⟩
    · rw [State.getV_setV_same, (blit_collided hlen).mpr hcol]
      rfl
    · rw [State.getV_setV_same, blit_collided_eq_false hlen hnone]
      rfl

/-- Settles O32: the clear display is the whole write. -/
theorem clearDisplay : Obligations.ClearDisplay :=
  ⟨decodeWord_encode .cls, fun s => ⟨_, rfl, Display.pixel_clear, unchanged_set_disp s _⟩⟩

end Sys2Proof.Proofs
end

section
/-! PROOFS. Keys and timers (44_input_timers.md R190 to R198): the frames of the writes to the timers and the wait, which
key an instruction selects, and what the key skips, the key wait and its WaitStep answer for each selection. -/

namespace Sys2Proof.Machine

/-! ### Frames -/

theorem unchanged_set_dt (s : State) (b : Byte) : Unchanged [.dt] s { s with dt := b } := by
  simp [Unchanged, State.getV, State.byteAt]

theorem unchanged_set_st (s : State) (b : Byte) : Unchanged [.st] s { s with st := b } := by
  simp [Unchanged, State.getV, State.byteAt]

theorem unchanged_set_waitX_runState (s : State) (x : Reg) (r : RunState) :
    Unchanged [.waitX, .runState] s { s with waitX := x, runState := r } := by
  simp [Unchanged, State.getV, State.byteAt]

theorem unchanged_set_waitX_runState_keyPrev (s : State) (x : Reg) (r : RunState) (prev : Keys) :
    Unchanged [.waitX, .runState, .keyPrev] s { s with waitX := x, runState := r, keyPrev := prev } := by
  simp [Unchanged, State.getV, State.byteAt]

/-! ### The key index (R192) -/

theorem keyIndex_eq_lowNibble {c : Config} {b : Byte} (h : b.toNat ≤ 0xF ∨ c.keyIndexMode = .mask) :
    keyIndex c b = some (lowNibble b) := by
  unfold keyIndex
  split
  case isTrue => rfl
  case isFalse habove => simp only [h.resolve_left habove]

theorem keyIndex_eq_none {c : Config} {b : Byte} (habove : 0xF < b.toNat) (hmode : c.keyIndexMode = .fault) :
    keyIndex c b = none := by
  simp only [keyIndex, if_neg (Nat.not_le.mpr habove), hmode]

/-! ### SKP and SKNP, by the key index -/

section
variable {c : Config} {x : Reg} {s : State}

theorem skpWith_of_key {k : Key} (h : keyIndex c (s.getV x) = some k) :
    skpWith c x s = .next (s.skipIf (s.keyDown k)) := by
  simp only [skpWith, h]

theorem sknpWith_of_key {k : Key} (h : keyIndex c (s.getV x) = some k) :
    sknpWith c x s = .next (s.skipIf (!s.keyDown k)) := by
  simp only [sknpWith, h]

theorem skpWith_of_noKey (h : keyIndex c (s.getV x) = none) :
    skpWith c x s = .next (s.raise .keyIndexOutOfRange (.skp x) 0) := by
  simp only [skpWith, h]

theorem sknpWith_of_noKey (h : keyIndex c (s.getV x) = none) :
    sknpWith c x s = .next (s.raise .keyIndexOutOfRange (.sknp x) 0) := by
  simp only [sknpWith, h]

end

/-! ### The key the latch offers (R197) -/

theorem qualifies_iff_of_level {c : Config} (h : c.keyWaitMode = .level) (key prev : Keys) (k : Key) :
    Qualifies c key prev k ↔ key[k.val] = true := by
  simp [Qualifies, h]

theorem qualifies_iff_of_edge {c : Config} (h : c.keyWaitMode = .edge) (key prev : Keys) (k : Key) :
    Qualifies c key prev k ↔ key[k.val] = true ∧ prev[k.val] = false := by
  simp [Qualifies, h]

/-- In either mode the poll searches from the lowest key up, by a test that decides `Qualifies`. -/
theorem pollAny_eq_find? (c : Config) (key prev : Keys) :
    ∃ p : Key → Bool, pollAny c key prev = sixteen.find? p ∧ ∀ k, p k = true ↔ Qualifies c key prev k := by
  cases h : c.keyWaitMode with
  | level => exact ⟨fun k => key[k.val], by simp only [pollAny, h], fun k => (qualifies_iff_of_level h key prev k).symm⟩
  | edge =>
    refine ⟨fun k => key[k.val] && !prev[k.val], by simp only [pollAny, h], fun k => ?_⟩
    rw [qualifies_iff_of_edge h, Bool.and_eq_true, Bool.not_eq_true']

theorem pollAny_eq_some_iff {c : Config} {key prev : Keys} {k : Key} :
    pollAny c key prev = some k ↔ Qualifies c key prev k ∧ ∀ j, j < k → ¬Qualifies c key prev j := by
  obtain ⟨p, hpoll, hp⟩ := pollAny_eq_find? c key prev
  simp only [hpoll, sixteen_find?_eq_some_iff, ← hp, Bool.not_eq_true]

theorem pollAny_eq_none_iff {c : Config} {key prev : Keys} :
    pollAny c key prev = none ↔ ∀ k, ¬Qualifies c key prev k := by
  obtain ⟨p, hpoll, hp⟩ := pollAny_eq_find? c key prev
  simp only [hpoll, sixteen_find?_eq_none_iff, ← hp, Bool.not_eq_true]

/-- In edge mode a key that is already in the snapshot does not count, so on a fresh snapshot none does. -/
theorem pollAny_self_of_edge {c : Config} (h : c.keyWaitMode = .edge) (key : Keys) : pollAny c key key = none := by
  rw [pollAny_eq_none_iff]
  intro k hk
  rw [qualifies_iff_of_edge h] at hk
  obtain ⟨hdown, hup⟩ := hk
  exact absurd hdown (Bool.eq_false_iff.mp hup)

/-! ### LD Vx, K (R196), by KEY_WAIT_MODE and the poll -/

theorem keyByte_toNat (k : Key) : (keyByte k).toNat = k.val :=
  Nat.mod_eq_of_lt (Nat.lt_trans k.isLt (by decide))

section
variable {c : Config} {s : State}

theorem ldVxKWith_congr {d : Config} (h : c.keyWaitMode = d.keyWaitMode) (x : Reg) (s : State) :
    ldVxKWith c x s = ldVxKWith d x s := by
  simp only [ldVxKWith, State.snapshotKeys, pollAny, h]

theorem ldVxKWith_of_level_of_key {k : Key} (x : Reg) (h : c.keyWaitMode = .level)
    (hpoll : pollAny c s.key s.keyPrev = some k) : ldVxKWith c x s = .next (s.setV x (keyByte k)) := by
  simp only [ldVxKWith, State.snapshotKeys, h, hpoll]

theorem ldVxKWith_of_level_of_noKey (x : Reg) (h : c.keyWaitMode = .level)
    (hpoll : pollAny c s.key s.keyPrev = none) :
    ldVxKWith c x s = .next { s with waitX := x, runState := .awaitingKey } := by
  simp only [ldVxKWith, State.snapshotKeys, h, hpoll]

theorem ldVxKWith_of_edge (x : Reg) (s : State) (h : c.keyWaitMode = .edge) :
    ldVxKWith c x s = .next { s with waitX := x, runState := .awaitingKey, keyPrev := s.key } := by
  simp only [ldVxKWith, State.snapshotKeys, h, pollAny_self_of_edge h]

end

/-! ### STEP in AwaitingKey (R198), by the poll -/

section
variable {c : Config} {s : State}

theorem stepWith_of_awaitingKey (c : Config) (h : s.runState = .awaitingKey) :
    stepWith c s = .next (waitStep c s) := by
  simp only [stepWith, stepBy, h]

theorem waitStep_of_key {k : Key} (h : pollAny c s.key s.keyPrev = some k) :
    waitStep c s = { s.setV s.waitX (keyByte k) with runState := .running } := by
  simp only [waitStep, h]

theorem waitStep_of_noKey (h : pollAny c s.key s.keyPrev = none) : waitStep c s = s.snapshotKeys c := by
  simp only [waitStep, h]

theorem waitStep_pc (c : Config) (s : State) : (waitStep c s).pc = s.pc := by
  cases h : pollAny c s.key s.keyPrev with
  | some k => rw [waitStep_of_key h, State.setV_pc]
  | none => rw [waitStep_of_noKey h, State.snapshotKeys_eq]

end

end Sys2Proof.Machine
end

section
/-! PROOFS. The obligations of 44_input_timers.md. -/

namespace Sys2Proof.Proofs

open Sys2Proof.Machine

/-- Settles O9, by what the poll of the latch finds. -/
theorem waitStepChecksTheLatch : Obligations.WaitStepChecksTheLatch := by
  refine fun c s hwait => ⟨fun k hk hlow => ?_, fun hnone => ?_⟩
  · rw [stepWith_of_awaitingKey c hwait, waitStep_of_key (pollAny_eq_some_iff.mpr ⟨hk, hlow⟩)]
    rfl
  · rw [stepWith_of_awaitingKey c hwait, waitStep_of_noKey (pollAny_eq_none_iff.mpr hnone), s.snapshotKeys_eq]

/-- Settles O36, by the key index: the low nibble, or none where the fault is taken. -/
theorem skipsOnKey : Obligations.SkipsOnKey := by
  refine fun x k s => ⟨decodeWord_encode (.skp x), decodeWord_encode (.sknp x), fun hk => ?_, fun c hc => ?_,
    fun c habove hmode => ?_⟩
  · have hnibble : lowNibble (s.getV x) = k := Fin.ext ((lowNibble_val _).trans hk)
    have hindex : keyIndex hwParams (s.getV x) = some k := hnibble ▸ keyIndex_eq_lowNibble (.inr rfl)
    refine ⟨⟨_, skpWith_of_key hindex, s.skipIf_pc _, s.unchanged_skipIf _⟩,
      ⟨_, sknpWith_of_key hindex, ?_, s.unchanged_skipIf _⟩⟩
    simp only [s.skipIf_pc, Bool.not_eq_true']
  · have hhw := keyIndex_eq_lowNibble (c := hwParams) (b := s.getV x) (.inr rfl)
    have hvariant := keyIndex_eq_lowNibble hc
    exact ⟨(skpWith_of_key hvariant).trans (skpWith_of_key hhw).symm,
      (sknpWith_of_key hvariant).trans (sknpWith_of_key hhw).symm⟩
  · have hindex := keyIndex_eq_none habove hmode
    exact ⟨⟨_, skpWith_of_noKey hindex, faultTaken_takeFault _ _ _ _ s⟩,
      ⟨_, sknpWith_of_noKey hindex, faultTaken_takeFault _ _ _ _ s⟩⟩

/-- Settles O37: each timer instruction is one write. -/
theorem timerInstructions : Obligations.TimerInstructions := fun x s =>
  ⟨decodeWord_encode (.ldVxDt x), decodeWord_encode (.ldDtVx x), decodeWord_encode (.ldStVx x), next_setV s x s.dt,
    ⟨_, rfl, rfl, unchanged_set_dt s _⟩, ⟨_, rfl, rfl, decide_eq_true_iff, unchanged_set_st s _⟩⟩

/-- Settles O38, by KEY_WAIT_MODE and, in level mode, by what the poll of the latch finds. -/
theorem keyWaitBegins : Obligations.KeyWaitBegins := by
  refine fun x s => ⟨decodeWord_encode (.ldVxK x), fun k hk hlow => ?_, fun hnone => ?_, fun c hc => ?_, fun c hc => ?_,
    fun c w hwait => ?_⟩
  · have hpoll : pollAny hwParams s.key s.keyPrev = some k := by
      simp only [pollAny_eq_some_iff, qualifies_iff_of_level (c := hwParams) rfl, Bool.not_eq_true]
      exact ⟨hk, hlow⟩
    refine ⟨_, ldVxKWith_of_level_of_key x rfl hpoll, ?_, s.regsUnchangedBut_setV x _, s.unchanged_setV x _⟩
    rw [s.getV_setV_same, keyByte_toNat]
  · have hpoll : pollAny hwParams s.key s.keyPrev = none := by
      simp only [pollAny_eq_none_iff, qualifies_iff_of_level (c := hwParams) rfl, Bool.not_eq_true]
      exact hnone
    exact ⟨_, ldVxKWith_of_level_of_noKey x rfl hpoll, rfl, rfl, unchanged_set_waitX_runState s _ _⟩
  · exact ldVxKWith_congr (d := hwParams) hc x s
  · exact ⟨_, ldVxKWith_of_edge x s hc, rfl, rfl, rfl, unchanged_set_waitX_runState_keyPrev s _ _ _⟩
  · exact ⟨_, stepWith_of_awaitingKey c hwait, waitStep_pc c w⟩

end Sys2Proof.Proofs
end

section
/-! PROOFS. The word of a decoded instruction (30_encoding.md R83 to R90): a fault records FAULT_OP as `encode` of the
instruction, which is the fetched opcode because no decoder drops a bit. -/

namespace Sys2Proof

/-! ### A word of each format, from the fields that a decoder has tested -/

section
variable {op : Word} {f : Nibble}

theorem wordNnn_of_family (hf : fieldFamily op = f) : wordNnn f (fieldNnn op) = op :=
  hf ▸ wordNnn_fields op

theorem wordXkk_of_family (hf : fieldFamily op = f) : wordXkk f (fieldX op) (fieldKk op) = op :=
  hf ▸ wordXkk_fields op

theorem wordXyn_of_family (hf : fieldFamily op = f) : wordXyn f (fieldX op) (fieldY op) (fieldN op) = op :=
  hf ▸ wordXyn_fields op

theorem wordXkk_of_family_lo8 {kk : Byte} (hf : fieldFamily op = f) (hkk : fieldKk op = kk) :
    wordXkk f (fieldX op) kk = op :=
  hkk ▸ wordXkk_of_family hf

theorem wordXyn_of_family_lo4 {n : Nibble} (hf : fieldFamily op = f) (hn : fieldN op = n) :
    wordXyn f (fieldX op) (fieldY op) n = op :=
  hn ▸ wordXyn_of_family hf

end

/-! ### Each decoder -/

section
variable {op : Word} {i : Instr}

theorem encode_of_decodeFamily0 (h : decodeFamily0 op = some i) : encode i = op := by
  unfold decodeFamily0 at h
  split_ifs at h with hop hop
  all_goals
    cases h
    exact hop.symm

theorem encode_of_decodeFamily8 (hf : fieldFamily op = 0x8)
    (h : decodeFamily8 (fieldN op) (fieldX op) (fieldY op) = some i) : encode i = op := by
  unfold decodeFamily8 at h
  split_ifs at h with hn hn hn hn hn hn hn hn hn
  all_goals
    cases h
    exact wordXyn_of_family_lo4 hf hn

theorem encode_of_decodeFamilyE (hf : fieldFamily op = 0xE) (h : decodeFamilyE (fieldKk op) (fieldX op) = some i) :
    encode i = op := by
  unfold decodeFamilyE at h
  split_ifs at h with hkk hkk
  all_goals
    cases h
    exact wordXkk_of_family_lo8 hf hkk

theorem encode_of_decodeFamilyF (hf : fieldFamily op = 0xF) (h : decodeFamilyF (fieldKk op) (fieldX op) = some i) :
    encode i = op := by
  unfold decodeFamilyF at h
  split_ifs at h with hkk hkk hkk hkk hkk hkk hkk hkk hkk
  all_goals
    cases h
    exact wordXkk_of_family_lo8 hf hkk

/-- R88, for family 0x5 and family 0x9 alike. -/
theorem encode_of_decodeLo4Zero {f : Nibble} {j : Instr} (hf : fieldFamily op = f)
    (hj : encode j = wordXyn f (fieldX op) (fieldY op) 0) (h : decodeLo4Zero (fieldN op) j = some i) :
    encode i = op := by
  unfold decodeLo4Zero at h
  split_ifs at h with hn
  cases h
  exact hj.trans (wordXyn_of_family_lo4 hf hn)

/-- One case for each family of R81. -/
theorem encode_of_decodeWord (h : decodeWord op = some i) : encode i = op := by
  rcases nibble_cases (fieldFamily op) with
    hf | hf | hf | hf | hf | hf | hf | hf | hf | hf | hf | hf | hf | hf | hf | hf
  all_goals simp only [decodeWord, hf, BitVec.reduceEq, ↓reduceIte, Option.some.injEq] at h
  · exact encode_of_decodeFamily0 h
  · exact h ▸ wordNnn_of_family hf
  · exact h ▸ wordNnn_of_family hf
  · exact h ▸ wordXkk_of_family hf
  · exact h ▸ wordXkk_of_family hf
  · exact encode_of_decodeLo4Zero hf rfl h
  · exact h ▸ wordXkk_of_family hf
  · exact h ▸ wordXkk_of_family hf
  · exact encode_of_decodeFamily8 hf h
  · exact encode_of_decodeLo4Zero hf rfl h
  · exact h ▸ wordNnn_of_family hf
  · exact h ▸ wordNnn_of_family hf
  · exact h ▸ wordXkk_of_family hf
  · exact h ▸ wordXyn_of_family hf
  · exact encode_of_decodeFamilyE hf h
  · exact encode_of_decodeFamilyF hf h

end

end Sys2Proof
end

section
/-! PROOFS. Frames compose, so that a sequence of transactions has one frame (60_exceptions.md R231). -/

namespace Sys2Proof.Machine

/-- One piece of the state is the same in `t` as in `s`. `unchanged_iff` ties it to the frame. -/
def SamePart (s t : State) : Part → Prop
  | .regs => ∀ r, t.getV r = s.getV r
  | .index => t.i = s.i
  | .pc => t.pc = s.pc
  | .sp => t.sp = s.sp
  | .stack => t.stack = s.stack
  | .dt => t.dt = s.dt
  | .st => t.st = s.st
  | .disp => t.disp = s.disp
  | .key => t.key = s.key
  | .runState => t.runState = s.runState
  | .waitX => t.waitX = s.waitX
  | .keyPrev => t.keyPrev = s.keyPrev
  | .faultRecord =>
    t.faultKind = s.faultKind ∧ t.faultPc = s.faultPc ∧ t.faultOp = s.faultOp ∧ t.faultAddr = s.faultAddr
  | .mem => ∀ a, t.byteAt a = s.byteAt a
  | .draws => t.draws = s.draws

theorem SamePart.trans {s t u : State} {p : Part} (hst : SamePart s t p) (htu : SamePart t u p) : SamePart s u p := by
  cases p
  case regs | mem => exact fun a => (htu a).trans (hst a)
  case faultRecord =>
    obtain ⟨hkind, hpc, hop, haddr⟩ := hst
    obtain ⟨hkind', hpc', hop', haddr'⟩ := htu
    exact ⟨hkind'.trans hkind, hpc'.trans hpc, hop'.trans hop, haddr'.trans haddr⟩
  all_goals exact Eq.trans htu hst

theorem unchanged_iff {may : List Part} {s t : State} : Unchanged may s t ↔ ∀ p, p ∉ may → SamePart s t p := by
  constructor
  · rintro ⟨hregs, hindex, hpc, hsp, hstack, hdt, hst, hdisp, hkey, hrun, hwaitX, hprev, hfault, hmem, hdraws⟩ p
    cases p <;> assumption
  · exact fun h => ⟨h .regs, h .index, h .pc, h .sp, h .stack, h .dt, h .st, h .disp, h .key, h .runState, h .waitX,
      h .keyPrev, h .faultRecord, h .mem, h .draws⟩

theorem Unchanged.refl (may : List Part) (s : State) : Unchanged may s s := by
  simp [Unchanged]

theorem Unchanged.trans {may : List Part} {s t u : State} (hst : Unchanged may s t) (htu : Unchanged may t u) :
    Unchanged may s u :=
  unchanged_iff.mpr fun p hp => (unchanged_iff.mp hst p hp).trans (unchanged_iff.mp htu p hp)

/-- A frame that names more pieces says less. -/
theorem Unchanged.mono {may more : List Part} {s t : State} (h : Unchanged may s t) (hsub : may ⊆ more) :
    Unchanged more s t :=
  unchanged_iff.mpr fun p hp => unchanged_iff.mp h p fun hmay => hp (hsub hmay)

theorem Unchanged.runState_eq {may : List Part} {s t : State} (h : Unchanged may s t) (hmay : .runState ∉ may) :
    t.runState = s.runState :=
  unchanged_iff.mp h .runState hmay

end Sys2Proof.Machine
end

section
/-! PROOFS. Faults (60_exceptions.md R211 to R215): the access checks name a fault, an instruction halts only by raising
one, and so does a STEP of a Running state. -/

namespace Sys2Proof.Machine

/-! ### A failed check names a fault (R211) -/

section
variable {a addr : Word} {m : Nat} {k : FaultKind}

theorem checkRead_kind_ne_none (h : checkRead a m = some (k, addr)) : k ≠ .none := by
  rw [checkRead_eq] at h
  split at h
  · cases h
  · cases h
    decide

theorem checkWrite_kind_ne_none {c : Config} (h : checkWrite c a m = some (k, addr)) : k ≠ .none := by
  rw [checkWrite_eq] at h
  split_ifs at h
  all_goals
    cases h
    decide

theorem checkSprite_kind_ne_none {n : Nibble} (h : checkSprite a n = some (k, addr)) : k ≠ .none := by
  unfold checkSprite at h
  split at h
  · cases h
  · exact checkRead_kind_ne_none h

theorem fetchCheck_kind_ne_none {c : Config} (h : fetchCheck c a = some (k, addr)) : k ≠ .none := by
  unfold fetchCheck at h
  split_ifs at h
  all_goals
    cases h
    decide

end

theorem fetchable_iff (pc : Word) : Fetchable pc ↔ fetchCheck hwParams pc = none := by
  refine ⟨Fetchable.fetchCheck_eq_none, fun h => ?_⟩
  obtain ⟨hend, heven, hstart⟩ := (fetchCheck_eq_none_iff hwParams pc).mp h
  rw [getLsbD_zero_iff_odd] at heven
  have hge : ¬pc.toNat < 0x200 := fun hlt => hstart ⟨rfl, hlt⟩
  have hmod : ¬pc.toNat % 2 = 1 := fun hodd => heven ⟨rfl, hodd⟩
  exact ⟨by omega, hend, by omega⟩

/-! ### What an instruction does to RUNSTATE -/

/-- What an instruction can do to RUNSTATE: leave it, begin the key wait, or raise a fault. -/
def RunStateKeptOrFault (i : Instr) (s t : State) : Prop :=
  t.runState = s.runState ∨ t.runState = .awaitingKey ∨ ∃ k a, k ≠ .none ∧ t = s.raise k i a

section
variable {i : Instr} {s t : State}

theorem guarded_runState {check : Option (FaultKind × Word)} {effect : State}
    (h : guarded check i s effect = .next t) (hcheck : ∀ k a, check = some (k, a) → k ≠ .none)
    (heffect : effect.runState = s.runState) : RunStateKeptOrFault i s t := by
  obtain ⟨-, rfl⟩ | ⟨k, a, hfail, rfl⟩ := guarded_cases h
  · exact .inl heffect
  · exact .inr (.inr ⟨k, a, hcheck k a hfail, rfl⟩)

@[simp] theorem State.skipIf_runState (s : State) (b : Bool) : (s.skipIf b).runState = s.runState := by
  cases b <;> rfl

theorem execRet_runState (h : execRet s = .next t) : RunStateKeptOrFault .ret s t := by
  unfold execRet at h
  split_ifs at h
  · cases h
    exact .inr (.inr ⟨.stackUnderflow, 0, nofun, rfl⟩)
  · cases h
    exact .inl rfl

theorem execCall_runState {nnn : Addr12} (h : execCall nnn s = .next t) : RunStateKeptOrFault (.call nnn) s t := by
  unfold execCall at h
  split_ifs at h
  · cases h
    exact .inr (.inr ⟨.stackOverflow, 0, nofun, rfl⟩)
  · cases h
    exact .inl rfl

theorem execLdVxK_runState {x : Reg} (h : execLdVxK x s = .next t) : RunStateKeptOrFault (.ldVxK x) s t := by
  unfold execLdVxK at h
  cases hpoll : pollAny hwParams s.key s.keyPrev with
  | some k =>
    rw [ldVxKWith_of_level_of_key x rfl hpoll] at h
    cases h
    exact .inl rfl
  | none =>
    rw [ldVxKWith_of_level_of_noKey x rfl hpoll] at h
    cases h
    exact .inr (.inl rfl)

/-- With KEY_INDEX_MODE = mask, as on this hardware, the key skips raise no fault. -/
theorem keySkips_runState {x : Reg} (h : execSkp x s = .next t ∨ execSknp x s = .next t) :
    t.runState = s.runState := by
  have hkey : keyIndex hwParams (s.getV x) = some (lowNibble (s.getV x)) := keyIndex_eq_lowNibble (.inr rfl)
  rw [execSkp, execSknp, skpWith_of_key hkey, sknpWith_of_key hkey] at h
  rcases h with h | h
  all_goals
    cases h
    exact s.skipIf_runState _

/-- The instructions with a fault or a key wait one by one; each other one writes no RUNSTATE. -/
theorem exec_runState (h : exec i s = .next t) : RunStateKeptOrFault i s t := by
  cases i
  case ret => exact execRet_runState h
  case call => exact execCall_runState h
  case ldVxK => exact execLdVxK_runState h
  case skp => exact .inl (keySkips_runState (.inl h))
  case sknp => exact .inl (keySkips_runState (.inr h))
  case drw => exact guarded_runState h (fun _ _ => checkSprite_kind_ne_none) rfl
  case ldBVx | ldMemVx => exact guarded_runState h (fun _ _ => checkWrite_kind_ne_none) rfl
  case ldVxMem => exact guarded_runState h (fun _ _ => checkRead_kind_ne_none) rfl
  case seKk | sneKk | seVy | sneVy =>
    cases h
    exact .inl (s.skipIf_runState _)
  all_goals
    cases h
    exact .inl rfl

end

/-! ### The STEP that halts -/

/-- R212: the fetch fault leaves PC at A and records no opcode; every other fault comes after the advance and records
the fetched one. -/
theorem step_halts_cases {s t : State} (hrun : s.runState = .running) (h : step s = .next t)
    (hhalt : t.runState = .halted) :
    ∃ k a, k ≠ .none ∧
      ((¬Fetchable s.pc ∧ t = s.takeFault k s.pc 0 a) ∨
       (Fetchable s.pc ∧ t = s.advance.takeFault k s.pc s.opcodeAtPc a)) := by
  cases hcheck : fetchCheck hwParams s.pc with
  | some f =>
    obtain ⟨k, a⟩ := f
    have hstep : step s = _ := stepBy_of_fetchFault hrun hcheck
    rw [hstep] at h
    cases h
    exact ⟨k, a, fetchCheck_kind_ne_none hcheck, .inl ⟨by simp [fetchable_iff, hcheck], rfl⟩⟩
  | none =>
    have hpc := (fetchable_iff s.pc).mpr hcheck
    cases hdec : decodeWord s.opcodeAtPc with
    | none =>
      rw [step_of_unknownOpcode hrun hpc hdec] at h
      cases h
      exact ⟨.unknownOpcode, 0, nofun, .inr ⟨hpc, rfl⟩⟩
    | some i =>
      rw [step_of_decoded hrun hpc hdec] at h
      obtain hkept | hwait | ⟨k, a, hk, rfl⟩ := exec_runState h
      · rw [State.advance_runState, hrun, hhalt] at hkept
        cases hkept
      · rw [hhalt] at hwait
        cases hwait
      · refine ⟨k, a, hk, .inr ⟨hpc, ?_⟩⟩
        rw [State.raise, State.advance_pc, BitVec.add_sub_cancel, encode_of_decodeWord hdec]

/-! ### Frames -/

theorem State.unchanged_takeFault (s : State) (k : FaultKind) (pc op a : Word) :
    Unchanged [.pc, .runState, .faultRecord] s (s.takeFault k pc op a) := by
  simp [Unchanged, State.getV, State.byteAt]

theorem State.unchanged_advance_takeFault (s : State) (k : FaultKind) (pc op a : Word) :
    Unchanged [.pc, .runState, .faultRecord] s (s.advance.takeFault k pc op a) :=
  ((unchanged_set_pc s (s.pc + 2)).mono (by simp)).trans (s.advance.unchanged_takeFault k pc op a)

end Sys2Proof.Machine
end

section
/-! PROOFS. The host's transactions (60_exceptions.md R216 to R231): the frames of TICK and SET_KEY, what they write,
and what a sequence of transactions keeps. -/

namespace Sys2Proof.Machine

/-! ### Frames -/

theorem unchanged_tick (s : State) : Unchanged [.dt, .st] s (tick s) := by
  simp [Unchanged, State.getV, State.byteAt]

theorem unchanged_setKey (k : Key) (p : Bool) (s : State) : Unchanged [.key] s (setKey k p s) := by
  simp [Unchanged, State.getV, State.byteAt]

/-! ### The latch (R224) -/

theorem State.keyDown_setKey_same (s : State) (k : Key) (p : Bool) : (setKey k p s).keyDown k = p := by
  simp [State.keyDown]

theorem State.keyDown_setKey_of_ne (s : State) {k j : Key} (p : Bool) (h : j ≠ k) :
    (setKey k p s).keyDown j = s.keyDown j := by
  have hval : k.val ≠ j.val := fun e => h (Fin.ext e.symm)
  simp [State.keyDown, hval]

/-! ### LOAD and STEP -/

theorem load_of_fits {c : Config} {rom : List Byte} (h : rom.length ≤ memSize - c.programStart.toNat) (s : State) :
    load c rom s = (s.loaded c rom, .ok) :=
  if_pos (decide_eq_true h)

theorem step_of_halted {s : State} (h : s.runState = .halted) : step s = .next s := by
  simp only [step, stepBy, h]

/-! ### Sequences (R231) -/

/-- A predicate that holds at the start, and that each transaction of the list answers with a state that keeps it,
holds at the end. -/
theorem runTransactions_keeps {P : State → Prop} {ts : List Transaction} {s : State} (hs : P s)
    (hkeep : ∀ t ∈ ts, ∀ v, P v → ∃ u, transact t v = .next u ∧ P u) :
    ∃ u, runTransactions ts s = .next u ∧ P u := by
  induction ts generalizing s with
  | nil => exact ⟨s, rfl, hs⟩
  | cons t ts ih =>
    obtain ⟨v, hv, hPv⟩ := hkeep t List.mem_cons_self s hs
    obtain ⟨u, hu, hPu⟩ := ih hPv fun t' ht' => hkeep t' (List.mem_cons_of_mem t ht')
    exact ⟨u, by rw [runTransactions, hv]; exact hu, hPu⟩

/-- R216: what the host can issue without LOAD and CONSTRUCT, in Halted. -/
theorem transact_of_halted {v : State} (h : v.runState = .halted) {t : Transaction}
    (ht : t = .step ∨ t = .tick ∨ ∃ k p, t = .setKey k p) :
    ∃ u, transact t v = .next u ∧ Unchanged [.dt, .st, .key] v u := by
  obtain rfl | rfl | ⟨k, p, rfl⟩ := ht
  · exact ⟨v, step_of_halted h, .refl _ v⟩
  · exact ⟨tick v, rfl, (unchanged_tick v).mono (by simp)⟩
  · exact ⟨setKey k p v, rfl, (unchanged_setKey k p v).mono (by simp)⟩

theorem runTransactions_of_halted {s : State} (hhalt : s.runState = .halted) {ts : List Transaction}
    (hts : ∀ t ∈ ts, t = .step ∨ t = .tick ∨ ∃ k p, t = .setKey k p) :
    ∃ u, runTransactions ts s = .next u ∧ Unchanged [.dt, .st, .key] s u := by
  refine runTransactions_keeps (.refl _ s) fun t ht v hframe => ?_
  have hv : v.runState = .halted := (hframe.runState_eq (by decide)).trans hhalt
  obtain ⟨u, hu, hvu⟩ := transact_of_halted hv (hts t ht)
  exact ⟨u, hu, hframe.trans hvu⟩

end Sys2Proof.Machine
end

section
/-! PROOFS. The obligations of 60_exceptions.md. -/

namespace Sys2Proof.Proofs

open Sys2Proof.Machine

/-- Settles O8: STEP, TICK and SET_KEY each keep the frame that leaves RUNSTATE at Halted, and LOAD starts from the
reset state. -/
theorem haltedIsSticky : Obligations.HaltedIsSticky := by
  refine fun s hhalt => ⟨fun ts => runTransactions_of_halted hhalt, step_of_halted hhalt, ?_,
    ⟨_, rfl, countDown_toNat s.dt, countDown_toNat s.st, unchanged_tick s⟩,
    fun k p => ⟨_, rfl, s.keyDown_setKey_same k p, unchanged_setKey k p s⟩, fun rom hrom => ?_⟩
  · rw [State.stepResult, hhalt]
  · refine ⟨_, rfl, ?_⟩
    rw [load_of_fits hrom]
    exact ⟨rfl, rfl, rfl, rfl, rfl⟩

/-- Settles O40, by whether the fetch passed its checks. -/
theorem faultsArePrecise : Obligations.FaultsArePrecise := by
  intro s t hrun hstep hhalt
  obtain ⟨k, a, hk, ⟨hpc, rfl⟩ | ⟨hpc, rfl⟩⟩ := step_halts_cases hrun hstep hhalt
  · exact ⟨rfl, hk, s.unchanged_takeFault k _ _ a, fun h => absurd h hpc, fun _ => ⟨rfl, rfl⟩⟩
  · exact ⟨rfl, hk, s.unchanged_advance_takeFault k _ _ a, fun _ => ⟨rfl, rfl⟩, fun h => absurd hpc h⟩

/-- Settles O42: the subtraction of naturals clamps at 0 as the timers do. -/
theorem tickCountsDown : Obligations.TickCountsDown := by
  have hcount (b : Byte) : (countDown b).toNat = if b.toNat > 0 then b.toNat - 1 else 0 := by
    rw [countDown_toNat]
    split <;> omega
  exact fun s => ⟨_, rfl, hcount s.dt, hcount s.st, unchanged_tick s⟩

/-- Settles O44, by the read of the latch after its write. -/
theorem setKeyWritesOneKey : Obligations.SetKeyWritesOneKey := fun s k p =>
  ⟨_, rfl, s.keyDown_setKey_same k p, fun _ => s.keyDown_setKey_of_ne p, unchanged_setKey k p s⟩

end Sys2Proof.Proofs
end

section
/-! PROOFS. LOAD and the reset (70_reset_and_hazards.md R240 to R242): the refusal, and what every byte reads as after
the reset and the copy. -/

namespace Sys2Proof.Machine

theorem load_of_tooLarge {c : Config} {rom : List Byte} (h : memSize - c.programStart.toNat < rom.length) (s : State) :
    load c rom s = (s, .romTooLarge) := by
  have hfits : c.romFits rom = false := decide_eq_false (Nat.not_le.mpr h)
  simp [load, hfits]

/-- R242: the copy over memory as at reset. -/
theorem State.read_loaded {c : Config} {rom : List Byte} (hwf : c.wf = true)
    (hrom : rom.length ≤ memSize - c.programStart.toNat) (s : State) (a : Nat) :
    Memory.read c (s.loaded c rom).mem a =
      if c.programStart.toNat ≤ a ∧ a < c.programStart.toNat + rom.length then rom.getD (a - c.programStart.toNat) 0
      else initByte c a := by
  have hstart : c.programStart.toNat ≤ memSize := by simp_all [Config.wf, Config.programAreaFits]
  exact Memory.read_writeBytes rom rfl (by omega) a

/-- R240: only KEY and the model's own draws tell a LOAD of an empty ROM from CONSTRUCT's state. -/
theorem State.loaded_nil (c : Config) (s : State) :
    s.loaded c [] = { State.initial c with key := s.key, draws := s.draws } := rfl

theorem State.byteAt_reset (a : Nat) : State.reset.byteAt a = initByte hwParams a := rfl

theorem initByte_of_outside_font {c : Config} {a : Nat}
    (h : a < c.fontBase.toNat ∨ c.fontBase.toNat + fontSize ≤ a) : initByte c a = 0 :=
  if_neg (by omega)

end Sys2Proof.Machine
end

section
/-! PROOFS. The obligations of 70_reset_and_hazards.md. -/

namespace Sys2Proof.Proofs

open Sys2Proof.Machine

/-- Settles O47: memory by the read after the copy, every other field by the reset value it starts from. -/
theorem loadResets : Obligations.LoadResets := by
  intro c s rom hwf hrom
  exact ⟨s.loaded c rom, load_of_fits hrom s, fun a _ => State.read_loaded hwf hrom s a,
    fun r => Vector.getElem_replicate r.isLt, rfl, rfl, rfl, fun j => Vector.getElem_replicate j.isLt, rfl, rfl,
    Display.pixel_clear, rfl, rfl, fun k => Vector.getElem_replicate k.isLt, rfl, rfl, rfl, rfl, rfl⟩

/-- Settles O46, by whether the ROM fits the 3584 bytes from 0x200 on. -/
theorem loadVerdictAtTheBoundary : Obligations.LoadVerdictAtTheBoundary := by
  refine fun s rom => ⟨fun hlong => ?_, fun hfits => ?_⟩
  · have hload := load_of_tooLarge (c := hwParams) hlong s
    exact ⟨hload, by rw [transact, hload]⟩
  · rw [load_of_fits (c := hwParams) hfits]

/-- Settles O48: both transactions start from `State.initial`; its bytes are the font's 80 and 0 outside. -/
theorem constructGivesResetState : Obligations.ConstructGivesResetState := by
  refine ⟨fun s => ⟨rfl, ?_⟩, fun r => Vector.getElem_replicate r.isLt, rfl, rfl, rfl,
    fun j => Vector.getElem_replicate j.isLt, rfl, rfl, Display.pixel_clear,
    fun k => Vector.getElem_replicate k.isLt, rfl, rfl, fun k => Vector.getElem_replicate k.isLt,
    rfl, rfl, rfl, rfl, ?_, fun a ha => ?_⟩
  case refine_1 =>
    rw [load_of_fits (Nat.zero_le _), State.loaded_nil]
    rfl
  case refine_2 => decide
  case refine_3 =>
    have hout : a < 0x050 ∨ 0x050 + fontSize ≤ a := ha.imp_right And.left
    rw [State.byteAt_reset, initByte_of_outside_font hout]

end Sys2Proof.Proofs
end

section
/-! PROOFS. The opcode map read as data (30_encoding.md R90), and the decoder on bytes (20_memory.md R53). -/

namespace Sys2Proof

theorem decode_bytesOfWord_append (op : Word) (rest : List Byte) {i : Instr} (h : decodeWord op = some i) :
    decode (bytesOfWord op ++ rest) = .ok (i, rest) := by
  simp only [bytesOfWord, List.cons_append, List.nil_append, decode, wordOfBytes_bytes, h]

/-- Two rows that some word matches both: on the bits that both rows fix they ask for the same. -/
theorem OpcodeRow.agree_of_common_word {op : Word} {r r' : OpcodeRow} (h : op &&& r.mask = r.value)
    (h' : op &&& r'.mask = r'.value) : r.value &&& r'.mask = r'.value &&& r.mask := by
  rw [← h, ← h', BitVec.and_assoc, BitVec.and_assoc, BitVec.and_comm r.mask]

/-- R90: any two rows of the opcode map differ on a bit that both fix. -/
theorem opcodeTable_pairwise_differ :
    opcodeTable.Pairwise fun r r' => r.value &&& r'.mask ≠ r'.value &&& r.mask := by
  decide

end Sys2Proof
end

section
/-! PROOFS. The obligations of 30_encoding.md about the decoder and the opcode map themselves. -/

namespace Sys2Proof.Proofs

/-- Settles O2: a fetch puts the two bytes of the word together again. -/
theorem encodeThenDecode : Obligations.EncodeThenDecode := fun i rest =>
  ⟨decodeWord_encode i, decode_bytesOfWord_append _ rest (decodeWord_encode i)⟩

/-- Settles O3, family by family in `encode_of_decodeWord`. -/
theorem decodeThenEncode : Obligations.DecodeThenEncode := fun _ _ => encode_of_decodeWord

/-- Settles O5: a common word would make the two rows agree on the bits that both fix, which no two rows do. -/
theorem opcodeRowsNeverOverlap : Obligations.OpcodeRowsNeverOverlap := by
  refine ⟨rfl, fun op j k rj rk hj hk hmatch hmatch' => ?_⟩
  obtain ⟨hjlt, rfl⟩ := List.getElem?_eq_some_iff.mp hj
  obtain ⟨hklt, rfl⟩ := List.getElem?_eq_some_iff.mp hk
  have hpair := List.pairwise_iff_getElem.mp opcodeTable_pairwise_differ
  rcases lt_trichotomy j.val k.val with hlt | heq | hgt
  · exact absurd (OpcodeRow.agree_of_common_word hmatch hmatch') (hpair _ _ hjlt hklt hlt)
  · exact Fin.ext heq
  · exact absurd (OpcodeRow.agree_of_common_word hmatch' hmatch) (hpair _ _ hklt hjlt hgt)

/-- Settles O1: the decoder evaluated on each of the words. -/
theorem specWordsDecode : Obligations.SpecWordsDecode :=
  ⟨rfl, rfl, rfl, rfl, rfl, rfl, rfl, rfl, rfl, rfl, rfl, rfl, rfl, rfl, rfl, rfl, rfl, rfl, rfl, rfl, rfl⟩

end Sys2Proof.Proofs
end

section
/-! PROOFS. Every instruction answers a next state where SP is in range (10_state.md R25), at any parameters. -/

namespace Sys2Proof.Machine

theorem guarded_completes (check : Option (FaultKind × Word)) (i : Instr) (s effect : State) :
    ∃ t, guarded check i s effect = .next t := by
  cases check with
  | some f => exact ⟨s.raise f.1 i f.2, rfl⟩
  | none => exact ⟨effect, rfl⟩

/-! ### RET and CALL, by SP: the fault, the effect, or the model's stop -/

theorem sp_cases_ret (sp : Byte) : sp = 0 ∨ (∃ j : Fin 16, sp.toNat = j.val + 1) ∨ 16 < sp.toNat := by
  by_cases hempty : sp = 0
  · exact .inl hempty
  have hpos : sp.toNat ≠ 0 := fun h0 => hempty (BitVec.eq_of_toNat_eq h0)
  by_cases hout : 16 < sp.toNat
  · exact .inr (.inr hout)
  · exact .inr (.inl ⟨⟨sp.toNat - 1, by omega⟩, (Nat.succ_pred hpos).symm⟩)

theorem sp_cases_call (sp : Byte) : sp.toNat = 16 ∨ (∃ j : Fin 16, sp.toNat = j.val) ∨ 16 < sp.toNat := by
  rcases Nat.lt_trichotomy sp.toNat 16 with hroom | hfull | hout
  · exact .inr (.inl ⟨⟨sp.toNat, hroom⟩, rfl⟩)
  · exact .inl hfull
  · exact .inr (.inr hout)

theorem execRet_of_outOfRange {s : State} (hsp : 16 < s.sp.toNat) : execRet s = .fault .stackPointerOutOfRange := by
  have hne : s.sp ≠ 0 := fun h0 => by simp [h0] at hsp
  rw [execRet, if_neg hne, dif_neg (by omega)]

theorem execCall_of_outOfRange (nnn : Addr12) {s : State} (hsp : 16 < s.sp.toNat) :
    execCall nnn s = .fault .stackPointerOutOfRange := by
  have hfull : ¬s.sp.toNat = stackDepth := hsp.ne'
  rw [execCall, if_neg hfull, dif_neg hsp.not_gt]

theorem execRet_completes {s : State} (hsp : s.sp.toNat ≤ 16) : ∃ t, execRet s = .next t := by
  obtain hempty | ⟨j, hentry⟩ | hout := sp_cases_ret s.sp
  · exact ⟨_, execRet_of_empty hempty⟩
  · exact ⟨_, execRet_of_entry hentry⟩
  · exact absurd hsp (Nat.not_le.mpr hout)

theorem execCall_completes (nnn : Addr12) {s : State} (hsp : s.sp.toNat ≤ 16) : ∃ t, execCall nnn s = .next t := by
  obtain hfull | ⟨j, hroom⟩ | hout := sp_cases_call s.sp
  · exact ⟨_, execCall_of_full nnn hfull⟩
  · exact ⟨_, execCall_of_room nnn hroom⟩
  · exact absurd hsp (Nat.not_le.mpr hout)

/-- What RET answers, when it answers a next state (R110). -/
theorem execRet_cases {s t : State} (h : execRet s = .next t) :
    (s.sp = 0 ∧ t = s.raise .stackUnderflow .ret 0) ∨
    ∃ j : Fin 16, s.sp.toNat = j.val + 1 ∧ t = { s with sp := s.sp - 1, pc := s.stack[j.val] } := by
  obtain hempty | ⟨j, hentry⟩ | hout := sp_cases_ret s.sp
  · rw [execRet_of_empty hempty] at h
    cases h
    exact .inl ⟨hempty, rfl⟩
  · rw [execRet_of_entry hentry] at h
    cases h
    exact .inr ⟨j, hentry, rfl⟩
  · rw [execRet_of_outOfRange hout] at h
    cases h

/-- What CALL answers, when it answers a next state (R112). -/
theorem execCall_cases {nnn : Addr12} {s t : State} (h : execCall nnn s = .next t) :
    (s.sp.toNat = 16 ∧ t = s.raise .stackOverflow (.call nnn) 0) ∨
    ∃ j : Fin 16, s.sp.toNat = j.val ∧
      t = { s with stack := s.stack.set j.val s.pc, sp := s.sp + 1, pc := zextAddr nnn } := by
  obtain hfull | ⟨j, hroom⟩ | hout := sp_cases_call s.sp
  · rw [execCall_of_full nnn hfull] at h
    cases h
    exact .inl ⟨hfull, rfl⟩
  · rw [execCall_of_room nnn hroom] at h
    cases h
    exact .inr ⟨j, hroom, rfl⟩
  · rw [execCall_of_outOfRange nnn hout] at h
    cases h

/-! ### The key skips and the key wait -/

/-- What a key skip answers (R190 to R192): it skips or not, or it raises the fault of its key index. -/
def KeySkipAnswer (i : Instr) (s : State) (r : Result) : Prop :=
  (∃ b, r = .next (s.skipIf b)) ∨ r = .next (s.raise .keyIndexOutOfRange i 0)

theorem skpWith_answer (c : Config) (x : Reg) (s : State) : KeySkipAnswer (.skp x) s (skpWith c x s) := by
  cases h : keyIndex c (s.getV x) with
  | some k => exact .inl ⟨_, skpWith_of_key h⟩
  | none => exact .inr (skpWith_of_noKey h)

theorem sknpWith_answer (c : Config) (x : Reg) (s : State) : KeySkipAnswer (.sknp x) s (sknpWith c x s) := by
  cases h : keyIndex c (s.getV x) with
  | some k => exact .inl ⟨_, sknpWith_of_key h⟩
  | none => exact .inr (sknpWith_of_noKey h)

theorem KeySkipAnswer.completes {i : Instr} {s : State} {r : Result} (h : KeySkipAnswer i s r) : ∃ t, r = .next t := by
  obtain ⟨_, rfl⟩ | rfl := h
  · exact ⟨_, rfl⟩
  · exact ⟨_, rfl⟩

/-- R196 in both modes: a key at once, or the wait. -/
theorem ldVxKWith_cases (c : Config) (x : Reg) (s : State) :
    (∃ k, pollAny c s.key s.keyPrev = some k ∧ ldVxKWith c x s = .next (s.setV x (keyByte k))) ∨
    ∃ prev, ldVxKWith c x s = .next { s with waitX := x, runState := .awaitingKey, keyPrev := prev } := by
  cases hmode : c.keyWaitMode with
  | edge => exact .inr ⟨s.key, ldVxKWith_of_edge x s hmode⟩
  | level =>
    cases hpoll : pollAny c s.key s.keyPrev with
    | some k => exact .inl ⟨k, rfl, ldVxKWith_of_level_of_key x hmode hpoll⟩
    | none => exact .inr ⟨s.keyPrev, ldVxKWith_of_level_of_noKey x hmode hpoll⟩

theorem ldVxKWith_completes (c : Config) (x : Reg) (s : State) : ∃ t, ldVxKWith c x s = .next t := by
  obtain ⟨_, _, h⟩ | ⟨_, h⟩ := ldVxKWith_cases c x s
  · exact ⟨_, h⟩
  · exact ⟨_, h⟩

/-! ### Every instruction, and STEP -/

/-- Only CALL and RET look at SP. -/
theorem execWith_completes_of_noStack (c : Config) {i : Instr} (s : State) (hret : i ≠ .ret)
    (hcall : ∀ nnn, i ≠ .call nnn) : ∃ t, execWith c i s = .next t := by
  cases i
  case ret => exact absurd rfl hret
  case call nnn => exact absurd rfl (hcall nnn)
  case drw | ldBVx | ldMemVx | ldVxMem => exact guarded_completes _ _ s _
  case skp x => exact (skpWith_answer c x s).completes
  case sknp x => exact (sknpWith_answer c x s).completes
  case ldVxK x => exact ldVxKWith_completes c x s
  all_goals exact ⟨_, rfl⟩

theorem execWith_completes (c : Config) (i : Instr) {s : State} (hsp : s.sp.toNat ≤ 16) :
    ∃ t, execWith c i s = .next t := by
  by_cases hret : i = .ret
  · exact hret ▸ execRet_completes hsp
  · by_cases hcall : ∃ nnn, i = .call nnn
    · obtain ⟨nnn, rfl⟩ := hcall
      exact execCall_completes nnn hsp
    · exact execWith_completes_of_noStack c s hret (not_exists.mp hcall)

theorem stepWith_completes (c : Config) {s : State} (hsp : s.sp.toNat ≤ 16) : ∃ t, stepWith c s = .next t := by
  obtain ⟨-, h⟩ | ⟨-, h⟩ | ⟨-, ⟨_, _, _, h⟩ | ⟨_, _, h⟩ | ⟨i, -, -, h⟩⟩ :=
    stepBy_cases (c := c) (run := execWith c) (s := s) rfl
  case inr.inr.inr.inr =>
    obtain ⟨t, ht⟩ := execWith_completes c i (s := s.advance) hsp
    exact ⟨t, h.trans ht⟩
  all_goals exact ⟨_, h⟩

end Sys2Proof.Machine
end

section
/-! PROOFS. The invariant of the reachable states (10_state.md R25, R31, R39; 20_memory.md R52) under each write, under
each instruction at any parameters, and under each transaction. -/

namespace Sys2Proof.Machine

/-- The advance and a skip do not wrap in the states that the invariant allows. -/
theorem pc_add_two_toNat {pc : Word} (h : pc.toNat ≤ 0x10FE) : (pc + 2).toNat = pc.toNat + 2 := by
  bv_omega

namespace State.Inv

variable {c : Config} {s : State}

/-! ### Under the writes. A piece that the invariant does not speak of may be written freely. -/

theorem set_v (hs : s.Inv c) (v : Vector Byte 16) : State.Inv c { s with v := v } := { hs with }

theorem set_pc (hs : s.Inv c) {a : Word} (ha : a.toNat ≤ 0x10FE) : State.Inv c { s with pc := a } :=
  { hs with pcInRange := ha }

theorem takeFault (hs : s.Inv c) {k : FaultKind} (hk : k ≠ .none) (pc op a : Word) :
    (s.takeFault k pc op a).Inv c :=
  { hs with faultIffHalted := iff_of_true hk rfl }

theorem raise (hs : s.Inv c) {k : FaultKind} (hk : k ≠ .none) (i : Instr) (a : Word) : (s.raise k i a).Inv c :=
  hs.takeFault hk _ _ a

theorem setLogic (hs : s.Inv c) (x : Reg) (b : Byte) : (s.setLogic c x b).Inv c := by
  unfold State.setLogic
  split
  · exact hs.set_v _
  · exact hs.set_v _

/-- The fetch checks leave room for the advance and one skip. -/
theorem skipIf (hs : s.Inv c) (hpc : s.pc.toNat ≤ 0x1000) (b : Bool) : (s.skipIf b).Inv c := by
  rw [s.skipIf_eq, s.skipIf_pc]
  refine hs.set_pc ?_
  split
  · rw [pc_add_two_toNat (by omega)]
    omega
  · omega

theorem guarded (hs : s.Inv c) {check : Option (FaultKind × Word)} {i : Instr} {effect t : State}
    (h : guarded check i s effect = .next t) (hfault : ∀ k a, check = some (k, a) → k ≠ .none)
    (heffect : check = none → effect.Inv c) : t.Inv c := by
  obtain ⟨hpass, rfl⟩ | ⟨k, a, hfail, rfl⟩ := guarded_cases h
  · exact heffect hpass
  · exact hs.raise (hfault k a hfail) i a

/-- R59, R60: a store that passed CheckWrite lies inside memory and, with GUARD_RESERVED, above the reserved area. -/
theorem set_mem_index (hs : s.Inv c) {bs : List Byte} {n : Nat} (hn : bs.length = n)
    (hpass : checkWrite c s.i n = none) (i : Word) :
    State.Inv c { s with mem := Memory.writeBytes c s.mem s.i.toNat bs, i := i } := by
  obtain ⟨hin, hhigh⟩ := checkWrite_eq_none hpass
  rw [← hn] at hin
  refine { hs with memCanonical := Memory.wf_writeBytes bs hs.memCanonical hin, reservedAsReset := fun hg a ha => ?_ }
  have hbelow : a < s.i.toNat := Nat.lt_of_lt_of_le ha (hhigh hg)
  exact (Memory.read_writeBytes_outside hs.memCanonical hin (.inl hbelow)).trans (hs.reservedAsReset hg a ha)

/-! ### Under the instructions -/

/-- R110: the popped entry is a return address, at most 0x1000. -/
theorem execRet (hs : s.Inv c) {t : State} (h : execRet s = .next t) : t.Inv c := by
  obtain ⟨-, rfl⟩ | ⟨j, hentry, rfl⟩ := execRet_cases h
  · exact hs.raise (by decide) _ _
  · have hpop : (s.sp - 1).toNat = j.val := sp_sub_one_toNat hentry
    exact { hs with spInRange := hpop.trans_le j.isLt.le, pcInRange := (hs.stackInRange j).trans (by decide) }

/-- R112: the pushed return address is at most 0x1000. -/
theorem execCall (hs : s.Inv c) (hpc : s.pc.toNat ≤ 0x1000) {nnn : Addr12} {t : State}
    (h : execCall nnn s = .next t) : t.Inv c := by
  obtain ⟨-, rfl⟩ | ⟨j, hroom, rfl⟩ := execCall_cases h
  · exact hs.raise (by decide) _ _
  · have hpush : (s.sp + 1).toNat = j.val + 1 := sp_add_one_toNat hroom
    have hnnn : (zextAddr nnn).toNat < 0x1000 := zextAddr_toNat nnn ▸ nnn.isLt
    refine { hs with
      spInRange := hpush.trans_le j.isLt, pcInRange := hnnn.le.trans (by decide), stackInRange := fun k => ?_ }
    rw [Vector.getElem_set]
    split
    · exact hpc
    · exact hs.stackInRange k

theorem keySkip (hs : s.Inv c) (hpc : s.pc.toNat ≤ 0x1000) {i : Instr} {r : Result} (hr : KeySkipAnswer i s r)
    {t : State} (h : r = .next t) : t.Inv c := by
  obtain ⟨_, rfl⟩ | rfl := hr
  · cases h
    exact hs.skipIf hpc _
  · cases h
    exact hs.raise (by decide) _ _

/-- Outside Halted no fault is recorded, so the run state may move among the other two. -/
theorem faultKind_eq_none (hs : s.Inv c) (hrun : s.runState ≠ .halted) : s.faultKind = .none := by
  by_contra hk
  exact hrun (hs.faultIffHalted.mp hk)

theorem ldVxKWith (hs : s.Inv c) (hrun : s.runState = .running) {x : Reg} {t : State}
    (h : ldVxKWith c x s = .next t) : t.Inv c := by
  obtain ⟨k, -, hkey⟩ | ⟨prev, hwait⟩ := ldVxKWith_cases c x s
  · rw [hkey] at h
    cases h
    exact hs.set_v _
  · rw [hwait] at h
    cases h
    have hk := hs.faultKind_eq_none (by simp [hrun])
    exact { hs with faultIffHalted := by simp [hk] }

/-- On entry to an instruction PC is A + 2 with A fetchable, so at most 0x1000. -/
theorem execWith (hs : s.Inv c) (hpc : s.pc.toNat ≤ 0x1000) (hrun : s.runState = .running) {i : Instr} {t : State}
    (h : execWith c i s = .next t) : t.Inv c := by
  cases i
  case ret => exact hs.execRet h
  case call => exact hs.execCall hpc h
  case jp nnn =>
    cases h
    have hnnn := nnn.isLt
    exact hs.set_pc (by rw [zextAddr_toNat]; omega)
  case jpV0 nnn =>
    cases h
    have hnnn := nnn.isLt
    have hv := (s.getV 0).isLt
    exact hs.set_pc (by rw [zextAddr_add_zextByte_toNat]; omega)
  case seKk | sneKk | seVy | sneVy =>
    cases h
    exact hs.skipIf hpc _
  case skp x => exact hs.keySkip hpc (skpWith_answer c x s) h
  case sknp x => exact hs.keySkip hpc (sknpWith_answer c x s) h
  case orVy | andVy | xorVy =>
    cases h
    exact hs.setLogic _ _
  case ldVxK => exact hs.ldVxKWith hrun h
  case drw => exact hs.guarded h (fun _ _ => checkSprite_kind_ne_none) fun _ => { hs with }
  case ldBVx =>
    exact hs.guarded h (fun _ _ => checkWrite_kind_ne_none) fun hpass => hs.set_mem_index (n := 3) rfl hpass s.i
  case ldMemVx x =>
    exact hs.guarded h (fun _ _ => checkWrite_kind_ne_none) fun hpass => hs.set_mem_index (s.lowRegs_length x) hpass _
  case ldVxMem => exact hs.guarded h (fun _ _ => checkRead_kind_ne_none) fun _ => { hs with }
  all_goals
    cases h
    exact { hs with }

/-! ### Under the transactions -/

theorem waitStep (hs : s.Inv c) (hwait : s.runState = .awaitingKey) : (waitStep c s).Inv c := by
  have hk := hs.faultKind_eq_none (by simp [hwait])
  cases hpoll : pollAny c s.key s.keyPrev with
  | some k =>
    rw [waitStep_of_key hpoll]
    exact { hs with faultIffHalted := by simp [hk] }
  | none =>
    rw [waitStep_of_noKey hpoll, s.snapshotKeys_eq]
    exact { hs with }

theorem stepWith (hs : s.Inv c) {t : State} (h : stepWith c s = .next t) : t.Inv c := by
  obtain ⟨-, ht⟩ | ⟨hwait, ht⟩ | ⟨hrun, hcase⟩ := stepBy_cases h
  · cases ht
    exact hs
  · cases ht
    exact hs.waitStep hwait
  obtain ⟨k, a, hcheck, ht⟩ | hfetched := hcase
  · cases ht
    exact hs.takeFault (fetchCheck_kind_ne_none hcheck) _ _ a
  have hcheck : fetchCheck c s.pc = none := hfetched.elim And.left fun ⟨_, h, _⟩ => h
  have hpc : s.advance.pc.toNat ≤ 0x1000 := by
    have hend := ((fetchCheck_eq_none_iff c s.pc).mp hcheck).1
    rw [State.advance_pc, pc_add_two_toNat (by omega)]
    omega
  have hadvance : s.advance.Inv c := hs.set_pc (hpc.trans (by decide))
  obtain ⟨-, -, ht⟩ | ⟨i, -, -, ht⟩ := hfetched
  · cases ht
    exact hadvance.takeFault (by decide) _ _ 0
  · exact hadvance.execWith hpc hrun ht.symm

theorem of_initial (hwf : c.wf = true) (key : Keys) (draws : Nat) :
    State.Inv c { State.initial c with key := key, draws := draws } where
  memCanonical := rfl
  reservedAsReset _ _ _ := rfl
  spInRange := Nat.zero_le _
  pcInRange := by
    simp only [Config.wf, Config.programAreaFits, Bool.and_eq_true, decide_eq_true_eq] at hwf
    exact hwf.2.trans (by decide)
  stackInRange j := by simp [State.initial]
  faultIffHalted := by simp [State.initial]

theorem loaded (hwf : c.wf = true) {rom : List Byte} (hrom : rom.length ≤ memSize - c.programStart.toNat) (s : State) :
    (s.loaded c rom).Inv c := by
  have hbase := of_initial hwf s.key s.draws
  have hstart : c.programStart.toNat ≤ memSize := by simp_all [Config.wf, Config.programAreaFits]
  refine { hbase with memCanonical := Memory.wf_writeBytes rom rfl (by omega), reservedAsReset := fun _ a ha => ?_ }
  rw [State.read_loaded hwf hrom, if_neg (by omega)]

/-- A LOAD that does not fit changes nothing, and one that fits starts over. -/
theorem load (hs : s.Inv c) (hwf : c.wf = true) (rom : List Byte) : (load c rom s).1.Inv c := by
  rcases Nat.lt_or_ge (memSize - c.programStart.toNat) rom.length with hlong | hfits
  · rw [load_of_tooLarge hlong]
    exact hs
  · rw [load_of_fits hfits]
    exact loaded hwf hfits s

theorem transactWith (hs : s.Inv c) (hwf : c.wf = true) (tr : Transaction) :
    ∃ t, transactWith c tr s = .next t ∧ t.Inv c := by
  cases tr with
  | construct => exact ⟨_, rfl, of_initial hwf _ _⟩
  | load rom => exact ⟨_, rfl, hs.load hwf rom⟩
  | step =>
    obtain ⟨t, ht⟩ := stepWith_completes c hs.spInRange
    exact ⟨t, ht, hs.stepWith ht⟩
  | tick => exact ⟨_, rfl, { hs with }⟩
  | setKey k p => exact ⟨_, rfl, { hs with }⟩

end State.Inv

end Sys2Proof.Machine
end

section
/-! PROOFS. The obligations about the invariant, and about the instructions that complete. -/

namespace Sys2Proof.Proofs

open Sys2Proof.Machine

/-- Settles O58: this hardware's step is the parameterised one at its parameters. -/
theorem stepKeepsInvariant : Obligations.StepKeepsInvariant := by
  intro s t hs hstep
  rw [← stepWith_hwParams] at hstep
  exact hs.stepWith hstep

/-- Settles O59, transaction by transaction. -/
theorem everyTransactionKeepsInvariant : Obligations.EveryTransactionKeepsInvariant :=
  fun _ tr _ hwf hs => hs.transactWith hwf tr

/-- Settles O57: what CONSTRUCT and LOAD leave is the initial state, with the ROM above the reserved area. -/
theorem resetMeetsInvariant : Obligations.ResetMeetsInvariant := by
  refine ⟨.of_initial hwParams_wf _ _, fun c s rom hwf hrom => ⟨.of_initial hwf _ _, ?_⟩⟩
  rw [load_of_fits hrom]
  exact .loaded hwf hrom s

/-- Settles O60, by O57 at the start and O59 at each transaction. -/
theorem everyTransactionSequenceRuns : Obligations.EveryTransactionSequenceRuns := fun _ =>
  runTransactions_keeps resetMeetsInvariant.1 fun tr _ v hv =>
    transactWith_hwParams tr v ▸ everyTransactionKeepsInvariant hwParams tr v hwParams_wf hv

/-- Settles O41: SP at most 16 leaves CALL and RET an entry or a hardware fault, and nothing else looks at SP. -/
theorem everyInstructionCompletes : Obligations.EveryInstructionCompletes := by
  intro i s
  simp only [← execWith_hwParams]
  refine ⟨execWith_completes hwParams i, execWith_completes_of_noStack hwParams s, fun nnn hsp hi => ?_⟩
  obtain rfl | rfl := hi
  · exact execRet_of_outOfRange hsp
  · exact execCall_of_outOfRange nnn hsp

end Sys2Proof.Proofs
end

section
/-! PROOFS. What each instruction writes on this hardware, named once, and from it which instruction a STEP must have
executed when a piece of the state differs after it. -/

namespace Sys2Proof.Machine

/-! ### What an instruction writes -/

/-- The pieces of the state that an instruction writes when it raises no fault. `exec_writesOrRaises` ties it to
the machine. -/
def partsWritten : Instr → List Part
  | .cls => [.disp]
  | .ret => [.pc, .sp]
  | .call _ => [.pc, .sp, .stack]
  | .jp _ | .jpV0 _ | .seKk _ _ | .sneKk _ _ | .seVy _ _ | .sneVy _ _ | .skp _ | .sknp _ => [.pc]
  | .ldKk _ _ | .addKk _ _ | .ldVy _ _ | .orVy _ _ | .andVy _ _ | .xorVy _ _ | .addVy _ _ | .subVy _ _
  | .shrVy _ _ | .subnVy _ _ | .shlVy _ _ | .ldVxDt _ | .ldVxMem _ => [.regs]
  | .rnd _ _ => [.regs, .draws]
  | .ldI _ | .addIVx _ | .ldFVx _ => [.index]
  | .drw _ _ _ => [.regs, .disp]
  | .ldVxK _ => [.regs, .waitX, .runState]
  | .ldDtVx _ => [.dt]
  | .ldStVx _ => [.st]
  | .ldBVx _ | .ldMemVx _ => [.mem]

/-- The registers that an instruction writes. `exec_regsUnchangedBut` ties it to the machine. -/
def regsWritten : Instr → List Reg
  | .ldKk x _ | .addKk x _ | .ldVy x _ | .orVy x _ | .andVy x _ | .xorVy x _ | .rnd x _ | .ldVxDt x | .ldVxK x => [x]
  | .addVy x _ | .subVy x _ | .shrVy x _ | .subnVy x _ | .shlVy x _ => [x, regF]
  | .drw _ _ _ => [regF]
  | .ldVxMem x => sixteen.filter (· ≤ x)
  | _ => []

section
variable {i : Instr} {s t : State}

/-- What an instruction can do to the pieces of the state: write its own, or raise a fault. -/
def WritesOrRaises (i : Instr) (s t : State) : Prop :=
  Unchanged (partsWritten i) s t ∨ ∃ k a, t = s.raise k i a

theorem guarded_writesOrRaises {check : Option (FaultKind × Word)} {effect : State}
    (h : guarded check i s effect = .next t) (heffect : Unchanged (partsWritten i) s effect) :
    WritesOrRaises i s t := by
  obtain ⟨-, rfl⟩ | ⟨k, a, -, rfl⟩ := guarded_cases h
  · exact .inl heffect
  · exact .inr ⟨k, a, rfl⟩

theorem execRet_writesOrRaises (h : execRet s = .next t) : WritesOrRaises .ret s t := by
  obtain ⟨-, rfl⟩ | ⟨_, -, rfl⟩ := execRet_cases h
  · exact .inr ⟨_, _, rfl⟩
  · exact .inl (unchanged_set_pc_sp s _ _)

theorem execCall_writesOrRaises {nnn : Addr12} (h : execCall nnn s = .next t) : WritesOrRaises (.call nnn) s t := by
  obtain ⟨-, rfl⟩ | ⟨_, -, rfl⟩ := execCall_cases h
  · exact .inr ⟨_, _, rfl⟩
  · exact .inl (unchanged_set_pc_sp_stack s _ _ _)

theorem KeySkipAnswer.writesOrRaises {r : Result} (hr : KeySkipAnswer i s r) (hi : partsWritten i = [.pc])
    (h : r = .next t) : WritesOrRaises i s t := by
  obtain ⟨b, rfl⟩ | rfl := hr
  · cases h
    exact .inl (hi ▸ s.unchanged_skipIf b)
  · cases h
    exact .inr ⟨_, _, rfl⟩

/-- With KEY_WAIT_MODE = level, as on this hardware, the snapshot stays as it is. -/
theorem execLdVxK_cases {x : Reg} (h : execLdVxK x s = .next t) :
    (∃ k, t = s.setV x (keyByte k)) ∨
    (pollAny hwParams s.key s.keyPrev = none ∧ t = { s with waitX := x, runState := .awaitingKey }) := by
  unfold execLdVxK at h
  cases hpoll : pollAny hwParams s.key s.keyPrev with
  | some k =>
    rw [ldVxKWith_of_level_of_key x rfl hpoll] at h
    cases h
    exact .inl ⟨k, rfl⟩
  | none =>
    rw [ldVxKWith_of_level_of_noKey x rfl hpoll] at h
    cases h
    exact .inr ⟨rfl, rfl⟩

theorem execLdVxK_unchanged {x : Reg} (h : execLdVxK x s = .next t) : Unchanged [.regs, .waitX, .runState] s t := by
  obtain ⟨k, rfl⟩ | ⟨-, rfl⟩ := execLdVxK_cases h
  · exact (s.unchanged_setV x _).mono (by simp)
  · exact (unchanged_set_waitX_runState s _ _).mono (by simp)

/-- By the write that each instruction ends in. -/
theorem exec_writesOrRaises (h : exec i s = .next t) : WritesOrRaises i s t := by
  cases i
  case ret => exact execRet_writesOrRaises h
  case call => exact execCall_writesOrRaises h
  case skp x => exact (skpWith_answer hwParams x s).writesOrRaises rfl h
  case sknp x => exact (sknpWith_answer hwParams x s).writesOrRaises rfl h
  case ldVxK => exact .inl (execLdVxK_unchanged h)
  case drw => exact guarded_writesOrRaises h (unchanged_set_disp_setV s _ regF _)
  case ldBVx | ldMemVx => exact guarded_writesOrRaises h (unchanged_set_mem s _)
  case ldVxMem x => exact guarded_writesOrRaises h (s.unchanged_loadRegs hwParams _ x)
  all_goals
    cases h
    refine .inl ?_
  case cls => exact unchanged_set_disp s _
  case jp | jpV0 => exact unchanged_set_pc s _
  case seKk | sneKk | seVy | sneVy => exact s.unchanged_skipIf _
  case ldKk | addKk | ldVy | orVy | andVy | xorVy | ldVxDt => exact s.unchanged_setV _ _
  case addVy | subVy | shrVy | subnVy | shlVy => exact s.unchanged_setResultFlag _ _ _
  case rnd x kk =>
    obtain ⟨-, -, hframe⟩ := rndOfDraw_writes (Config.randByte s.draws) x kk s
    exact hframe
  case ldI | addIVx | ldFVx => exact unchanged_set_index s _
  case ldDtVx => exact unchanged_set_dt s _
  case ldStVx => exact unchanged_set_st s _

theorem State.unchanged_raise (s : State) (k : FaultKind) (i : Instr) (a : Word) :
    Unchanged [.runState, .faultRecord] s (s.raise k i a) := by
  simp [Unchanged, State.byteAt]

/-- A fault writes no piece but RUNSTATE and the record, so for any other piece the list of the instruction is all. -/
theorem exec_samePart (h : exec i s = .next t) {p : Part} (hp : p ∉ partsWritten i)
    (hfault : p ∉ [Part.runState, .faultRecord]) : SamePart s t p := by
  obtain hwrites | ⟨k, a, rfl⟩ := exec_writesOrRaises h
  · exact unchanged_iff.mp hwrites p hp
  · exact unchanged_iff.mp (s.unchanged_raise k i a) p hfault

theorem guarded_regsUnchangedBut {check : Option (FaultKind × Word)} {effect : State} {but : List Reg}
    (h : guarded check i s effect = .next t) (heffect : RegsUnchangedBut but s effect) :
    RegsUnchangedBut but s t := by
  obtain ⟨-, rfl⟩ | ⟨k, a, -, rfl⟩ := guarded_cases h
  · exact heffect
  · exact fun r _ => s.getV_raise k i a r

theorem State.regsUnchangedBut_loadRegs (s : State) (c : Config) (a : Nat) (x : Reg) :
    RegsUnchangedBut (sixteen.filter (· ≤ x)) s (s.loadRegs c a x) := by
  intro r hr
  have hgt : ¬r ≤ x := fun hle => hr (List.mem_filter.mpr ⟨sixteen_mem r, decide_eq_true hle⟩)
  rw [s.getV_loadRegs, if_neg hgt]

/-- The instructions that write registers, each by its write; every other one leaves all of them. -/
theorem exec_regsUnchangedBut (h : exec i s = .next t) : RegsUnchangedBut (regsWritten i) s t := by
  cases i
  case ldKk | addKk | ldVy | orVy | andVy | xorVy | ldVxDt | rnd =>
    cases h
    exact s.regsUnchangedBut_setV _ _
  case addVy | subVy | shrVy | subnVy | shlVy =>
    cases h
    exact s.regsUnchangedBut_setResultFlag _ _ _
  case drw => exact guarded_regsUnchangedBut h (State.regsUnchangedBut_setV _ regF _)
  case ldVxMem x => exact guarded_regsUnchangedBut h (s.regsUnchangedBut_loadRegs hwParams _ x)
  case ldVxK x =>
    obtain ⟨k, rfl⟩ | ⟨-, rfl⟩ := execLdVxK_cases h
    · exact s.regsUnchangedBut_setV x _
    · exact fun _ _ => rfl
  all_goals
    have hsame : SamePart s t .regs := exec_samePart h (by simp [partsWritten]) (by simp)
    exact fun r _ => hsame r

end

/-! ### The instruction that a STEP executes -/

theorem State.Executes.step_eq {s : State} {i : Instr} (h : s.Executes i) : step s = exec i s.advance := by
  obtain ⟨hrun, hpc, hdec⟩ := h
  exact step_of_decoded hrun hpc hdec

theorem State.Executes.unique {s : State} {i j : Instr} (hi : s.Executes i) (hj : s.Executes j) : i = j := by
  obtain ⟨-, -, hi⟩ := hi
  obtain ⟨-, -, hj⟩ := hj
  exact Option.some.inj (hi.symm.trans hj)

theorem step_of_awaitingKey {s : State} (h : s.runState = .awaitingKey) : step s = .next (waitStep hwParams s) := by
  rw [← stepWith_hwParams, stepWith_of_awaitingKey hwParams h]

/-- What STEP can do on this hardware: nothing in Halted, a WaitStep in AwaitingKey, and in Running an instruction, or
a fault of the cycle itself. -/
theorem step_cases {s t : State} (h : step s = .next t) :
    (s.runState = .halted ∧ t = s) ∨
    (s.runState = .awaitingKey ∧ t = waitStep hwParams s) ∨
    (s.runState = .running ∧ t.runState = .halted ∧ Unchanged [.pc, .runState, .faultRecord] s t) ∨
    ∃ i, s.Executes i ∧ exec i s.advance = .next t := by
  obtain ⟨hrun, ht⟩ | ⟨hrun, ht⟩ | ⟨hrun, ⟨k, a, -, ht⟩ | ⟨-, -, ht⟩ | ⟨i, hcheck, hdec, ht⟩⟩ := stepBy_cases h
  · cases ht
    exact .inl ⟨hrun, rfl⟩
  · cases ht
    exact .inr (.inl ⟨hrun, rfl⟩)
  · cases ht
    exact .inr (.inr (.inl ⟨hrun, rfl, s.unchanged_takeFault k _ _ a⟩))
  · cases ht
    exact .inr (.inr (.inl ⟨hrun, rfl, s.unchanged_advance_takeFault _ _ _ _⟩))
  · rw [s.fetchWord_hwParams_pc] at hdec
    exact .inr (.inr (.inr ⟨i, ⟨hrun, (fetchable_iff s.pc).mpr hcheck, hdec⟩, ht.symm⟩))

/-! ### The key wait (R198) at KEY_WAIT_MODE = level -/

theorem pollAny_hwParams_eq_none_iff {s : State} :
    pollAny hwParams s.key s.keyPrev = none ↔ ∀ k, s.keyDown k = false := by
  simp only [pollAny_eq_none_iff, qualifies_iff_of_level (c := hwParams) rfl, Bool.not_eq_true]
  rfl

theorem waitStep_of_noKeyDown {s : State} (h : ∀ k, s.keyDown k = false) : waitStep hwParams s = s :=
  waitStep_of_noKey (pollAny_hwParams_eq_none_iff.mpr h)

theorem waitStep_of_keyDown {s : State} (h : ∃ k, s.keyDown k = true) :
    ∃ k, waitStep hwParams s = { s.setV s.waitX (keyByte k) with runState := .running } := by
  cases hpoll : pollAny hwParams s.key s.keyPrev with
  | some k => exact ⟨k, waitStep_of_key hpoll⟩
  | none =>
    obtain ⟨k, hk⟩ := h
    simp [pollAny_hwParams_eq_none_iff.mp hpoll k] at hk

theorem waitStep_cases (s : State) :
    waitStep hwParams s = s ∨
    ∃ k, waitStep hwParams s = { s.setV s.waitX (keyByte k) with runState := .running } := by
  by_cases h : ∃ k, s.keyDown k = true
  · exact .inr (waitStep_of_keyDown h)
  · exact .inl (waitStep_of_noKeyDown fun k => Bool.eq_false_iff.mpr fun hk => h ⟨k, hk⟩)

theorem State.unchanged_resume (s : State) (x : Reg) (b : Byte) (r : RunState) :
    Unchanged [.regs, .runState] s { s.setV x b with runState := r } := by
  simp [Unchanged, State.byteAt]

theorem unchanged_waitStep (s : State) : Unchanged [.regs, .runState] s (waitStep hwParams s) := by
  obtain h | ⟨k, h⟩ := waitStep_cases s
  · rw [h]
    exact .refl _ s
  · rw [h]
    exact s.unchanged_resume _ _ _

/-! ### The writer of a piece -/

/-- A STEP that changes a piece which neither the cycle nor a WaitStep writes has executed an instruction that lists
it. -/
theorem step_writer {s t : State} {p : Part} (h : step s = .next t)
    (hp : p ∉ [Part.regs, .pc, .runState, .faultRecord]) (hne : ¬SamePart s t p) :
    ∃ i, s.Executes i ∧ exec i s.advance = .next t ∧ p ∈ partsWritten i := by
  simp only [List.mem_cons, List.not_mem_nil, or_false, not_or] at hp
  obtain ⟨hregs, hpc, hrun, hfault⟩ := hp
  obtain ⟨-, rfl⟩ | ⟨-, rfl⟩ | ⟨-, -, hframe⟩ | ⟨i, hi, ht⟩ := step_cases h
  · exact absurd (unchanged_iff.mp (.refl [] t) p List.not_mem_nil) hne
  · exact absurd (unchanged_iff.mp (unchanged_waitStep s) p (by simp [hregs, hrun])) hne
  · exact absurd (unchanged_iff.mp hframe p (by simp [hpc, hrun, hfault])) hne
  · refine ⟨i, hi, ht, by_contra fun hwrites => hne ?_⟩
    have hadvance : SamePart s s.advance p := unchanged_iff.mp (unchanged_set_pc s _) p (by simp [hpc])
    exact hadvance.trans (exec_samePart ht hwrites (by simp [hrun, hfault]))

/-! ### Who lists a piece -/

section
variable {i : Instr}

theorem eq_of_disp_mem (h : .disp ∈ partsWritten i) : i = .cls ∨ ∃ x y n, i = .drw x y n := by
  cases i <;> simp_all [partsWritten]

theorem eq_of_index_mem (h : .index ∈ partsWritten i) :
    (∃ nnn, i = .ldI nnn) ∨ ∃ x, i = .addIVx x ∨ i = .ldFVx x := by
  cases i <;> simp_all [partsWritten]

theorem eq_of_sp_mem (h : .sp ∈ partsWritten i) : i = .ret ∨ ∃ nnn, i = .call nnn := by
  cases i <;> simp_all [partsWritten]

theorem eq_of_stack_mem (h : .stack ∈ partsWritten i) : ∃ nnn, i = .call nnn := by
  cases i <;> simp_all [partsWritten]

theorem eq_of_dt_mem (h : .dt ∈ partsWritten i) : ∃ x, i = .ldDtVx x := by
  cases i <;> simp_all [partsWritten]

theorem eq_of_st_mem (h : .st ∈ partsWritten i) : ∃ x, i = .ldStVx x := by
  cases i <;> simp_all [partsWritten]

theorem eq_of_mem_mem (h : .mem ∈ partsWritten i) : ∃ x, i = .ldBVx x ∨ i = .ldMemVx x := by
  cases i <;> simp_all [partsWritten]

theorem eq_of_draws_mem (h : .draws ∈ partsWritten i) : ∃ x kk, i = .rnd x kk := by
  cases i <;> simp_all [partsWritten]

theorem eq_of_runState_mem (h : .runState ∈ partsWritten i) : ∃ x, i = .ldVxK x := by
  cases i <;> simp_all [partsWritten]

theorem key_not_mem_partsWritten (i : Instr) : .key ∉ partsWritten i := by
  cases i <;> simp [partsWritten]

end

/-! ### Who lists VF -/

theorem eq_regF_of_mem_filter_le {x : Reg} (h : regF ∈ sixteen.filter (· ≤ x)) : x = regF :=
  le_antisymm (Nat.le_of_lt_succ x.isLt) (decide_eq_true_iff.mp (List.mem_filter.mp h).2)

/-- R36: the instructions that list VF, first those that set a flag and then those whose destination it is. -/
theorem executes_flag_writer {s : State} {i : Instr} (hi : s.Executes i) (hmem : regF ∈ regsWritten i) :
    (∃ x y, s.Executes (.addVy x y) ∨ s.Executes (.subVy x y) ∨ s.Executes (.subnVy x y) ∨
      s.Executes (.shrVy x y) ∨ s.Executes (.shlVy x y) ∨ ∃ n, s.Executes (.drw x y n)) ∨
    (∃ kk, s.Executes (.ldKk regF kk) ∨ s.Executes (.addKk regF kk) ∨ s.Executes (.rnd regF kk)) ∨
    (∃ y, s.Executes (.ldVy regF y) ∨ s.Executes (.orVy regF y) ∨ s.Executes (.andVy regF y) ∨
      s.Executes (.xorVy regF y)) ∨
    s.Executes (.ldVxDt regF) ∨ s.Executes (.ldVxK regF) ∨ s.Executes (.ldVxMem regF) := by
  cases i
  case addVy x y => exact .inl ⟨x, y, .inl hi⟩
  case subVy x y => exact .inl ⟨x, y, .inr (.inl hi)⟩
  case subnVy x y => exact .inl ⟨x, y, .inr (.inr (.inl hi))⟩
  case shrVy x y => exact .inl ⟨x, y, .inr (.inr (.inr (.inl hi)))⟩
  case shlVy x y => exact .inl ⟨x, y, .inr (.inr (.inr (.inr (.inl hi))))⟩
  case drw x y n => exact .inl ⟨x, y, .inr (.inr (.inr (.inr (.inr ⟨n, hi⟩))))⟩
  case ldVxMem x =>
    obtain rfl := eq_regF_of_mem_filter_le hmem
    exact .inr (.inr (.inr (.inr (.inr hi))))
  case' ldKk | addKk | rnd | ldVy | orVy | andVy | xorVy | ldVxDt | ldVxK =>
    obtain rfl := List.mem_singleton.mp hmem
  case ldKk kk => exact .inr (.inl ⟨kk, .inl hi⟩)
  case addKk kk => exact .inr (.inl ⟨kk, .inr (.inl hi)⟩)
  case rnd kk => exact .inr (.inl ⟨kk, .inr (.inr hi)⟩)
  case ldVy y => exact .inr (.inr (.inl ⟨y, .inl hi⟩))
  case orVy y => exact .inr (.inr (.inl ⟨y, .inr (.inl hi)⟩))
  case andVy y => exact .inr (.inr (.inl ⟨y, .inr (.inr (.inl hi))⟩))
  case xorVy y => exact .inr (.inr (.inl ⟨y, .inr (.inr (.inr hi))⟩))
  case ldVxDt => exact .inr (.inr (.inr (.inl hi)))
  case ldVxK => exact .inr (.inr (.inr (.inr (.inl hi))))
  all_goals exact absurd hmem List.not_mem_nil

/-! ### Memory, RUNSTATE and the timers -/

/-- A byte that a guarded store changed lies in the stored range, in memory and above the reserved area. -/
theorem changed_byte_of_store {i : Instr} {s t : State} {bs : List Byte} {n a : Nat} (hn : bs.length = n)
    (hmem : Memory.wf hwParams s.mem = true)
    (h : guarded (checkWrite hwParams s.i n) i s
      { s with mem := Memory.writeBytes hwParams s.mem s.i.toNat bs } = .next t)
    (hne : t.byteAt a ≠ s.byteAt a) : 0x200 ≤ s.i.toNat ∧ s.i.toNat ≤ a ∧ a < s.i.toNat + n ∧ a < 0x1000 := by
  obtain ⟨hpass, rfl⟩ | ⟨k, addr, -, rfl⟩ := guarded_cases h
  · obtain ⟨hin, hhigh⟩ := checkWrite_eq_none hpass
    have hstart : 0x200 ≤ s.i.toNat := hhigh rfl
    have hin' : s.i.toNat + n ≤ 4096 := hin
    have hrange : s.i.toNat ≤ a ∧ a < s.i.toNat + n := by
      by_contra hout
      exact hne (Memory.read_writeBytes_outside hmem (hn ▸ hin) (by omega))
    omega
  · exact absurd rfl hne

/-- R40: of the instructions only Fx0A begins the key wait, and only with no key pressed. -/
theorem exec_begins_wait {i : Instr} {s t : State} (h : exec i s = .next t) (hrun : s.runState = .running)
    (hwait : t.runState = .awaitingKey) :
    ∃ x, i = .ldVxK x ∧ t.waitX = x ∧ ∀ k, s.keyDown k = false := by
  obtain hwrites | ⟨k, a, rfl⟩ := exec_writesOrRaises h
  · by_cases hmem : .runState ∈ partsWritten i
    · obtain ⟨x, rfl⟩ := eq_of_runState_mem hmem
      obtain ⟨k, rfl⟩ | ⟨hpoll, rfl⟩ := execLdVxK_cases h
      · simp [hrun] at hwait
      · exact ⟨x, rfl, rfl, pollAny_hwParams_eq_none_iff.mp hpoll⟩
    · simp [hwrites.runState_eq hmem, hrun] at hwait
  · simp at hwait

/-- LOAD resets or refuses, and leaves the draws of the run either way. -/
theorem load_draws (c : Config) (rom : List Byte) (s : State) : (load c rom s).1.draws = s.draws := by
  rcases Nat.lt_or_ge (memSize - c.programStart.toNat) rom.length with hlong | hfits
  · rw [load_of_tooLarge hlong]
  · rw [load_of_fits hfits, State.loaded_draws]

/-- W7: each TICK takes 1 off each timer that is not yet 0. -/
theorem runTransactions_ticks (s : State) (n : Nat) :
    ∃ t, runTransactions (List.replicate n .tick) s = .next t ∧
      t.dt.toNat = s.dt.toNat - n ∧ t.st.toNat = s.st.toNat - n ∧ Unchanged [.dt, .st] s t := by
  induction n generalizing s with
  | zero => exact ⟨s, rfl, rfl, rfl, .refl _ s⟩
  | succ n ih =>
    obtain ⟨t, hrun, hdt, hst, hframe⟩ := ih (tick s)
    rw [State.tick_dt, countDown_toNat] at hdt
    rw [State.tick_st, countDown_toNat] at hst
    exact ⟨t, hrun, by omega, by omega, (unchanged_tick s).trans hframe⟩

theorem runTransactions_of_awaitingKey {s : State} (hwait : s.runState = .awaitingKey)
    (hup : ∀ k, s.keyDown k = false) {ts : List Transaction} (hts : ∀ t ∈ ts, t = .step ∨ t = .tick) :
    ∃ u, runTransactions ts s = .next u ∧ Unchanged [.dt, .st] s u := by
  refine runTransactions_keeps (.refl _ s) fun t ht v hframe => ?_
  have hv : v.runState = .awaitingKey := (hframe.runState_eq (by decide)).trans hwait
  have hkey : v.key = s.key := unchanged_iff.mp hframe .key (by decide)
  obtain rfl | rfl := hts t ht
  · have hvup : ∀ k, v.keyDown k = false := fun k => by rw [State.keyDown, hkey]; exact hup k
    exact ⟨v, (step_of_awaitingKey hv).trans (by rw [waitStep_of_noKeyDown hvup]), hframe⟩
  · exact ⟨tick v, rfl, hframe.trans (unchanged_tick v)⟩

end Sys2Proof.Machine
end

section
/-! PROOFS. The obligations about what a STEP writes (10_state.md, 20_memory.md, 60_exceptions.md). -/

namespace Sys2Proof.Proofs

open Sys2Proof.Machine

/-- Settles O49: the display has two writers and the latch none. -/
theorem displayAndKeysWriters : Obligations.DisplayAndKeysWriters := by
  refine fun s t h => ⟨by_contra fun hne => ?_, fun hne => ?_⟩
  · obtain ⟨i, -, -, hmem⟩ := step_writer (p := .key) h (by decide) hne
    exact key_not_mem_partsWritten i hmem
  · obtain ⟨i, hi, -, hmem⟩ := step_writer (p := .disp) h (by decide) hne
    obtain rfl | ⟨x, y, n, rfl⟩ := eq_of_disp_mem hmem
    · exact .inl hi
    · exact .inr ⟨x, y, n, hi⟩

/-- Settles O50, piece by piece. -/
theorem indexAndStackWriters : Obligations.IndexAndStackWriters := by
  refine fun s t h => ⟨fun hne => ?_, fun hne => ?_, fun hne => ?_⟩
  · obtain ⟨i, hi, -, hmem⟩ := step_writer (p := .index) h (by decide) hne
    obtain ⟨nnn, rfl⟩ | ⟨x, rfl | rfl⟩ := eq_of_index_mem hmem
    · exact .inl ⟨nnn, hi⟩
    · exact .inr ⟨x, .inl hi⟩
    · exact .inr ⟨x, .inr hi⟩
  · obtain ⟨i, hi, -, hmem⟩ := step_writer (p := .sp) h (by decide) hne
    obtain rfl | ⟨nnn, rfl⟩ := eq_of_sp_mem hmem
    · exact .inl hi
    · exact .inr ⟨nnn, hi⟩
  · obtain ⟨i, hi, -, hmem⟩ := step_writer (p := .stack) h (by decide) hne
    obtain ⟨nnn, rfl⟩ := eq_of_stack_mem hmem
    exact ⟨nnn, hi⟩

/-- Settles O51: both stores are guarded, and a byte they change lies in the range they store to. -/
theorem memoryWriters : Obligations.MemoryWriters := by
  intro s t a hwf h hne
  obtain ⟨i, hi, ht, hmem⟩ := step_writer (p := .mem) h (by decide) fun hsame => hne (hsame a)
  obtain ⟨x, rfl | rfl⟩ := eq_of_mem_mem hmem
  · obtain ⟨hstart, hlow, hhigh, hend⟩ := changed_byte_of_store (s := s.advance) (n := 3) rfl hwf ht hne
    rw [State.advance_i] at hstart hlow hhigh
    exact ⟨by omega, by omega, x, .inl ⟨hi, hlow, by omega⟩⟩
  · obtain ⟨hstart, hlow, hhigh, hend⟩ :=
      changed_byte_of_store (s := s.advance) (s.advance.lowRegs_length x) hwf ht hne
    rw [State.advance_i] at hstart hlow hhigh
    exact ⟨by omega, by omega, x, .inr ⟨hi, hlow, by omega⟩⟩

/-- Settles O52: a WaitStep writes V[WAIT_X], and an instruction the registers it lists. -/
theorem flagRegisterWriters : Obligations.FlagRegisterWriters := by
  intro s t h hne
  obtain ⟨-, rfl⟩ | ⟨hwait, rfl⟩ | ⟨-, -, hframe⟩ | ⟨i, hi, ht⟩ := step_cases h
  · exact absurd rfl hne
  · refine .inl ⟨hwait, by_contra fun hx => hne ?_⟩
    obtain hstay | ⟨k, hresume⟩ := waitStep_cases s
    · rw [hstay]
    · rw [hresume]
      exact s.getV_setV_of_ne _ (Ne.symm hx)
  · exact absurd (unchanged_iff.mp hframe .regs (by decide) regF) hne
  · have hmem : regF ∈ regsWritten i := by_contra fun hout => hne (exec_regsUnchangedBut ht regF hout)
    exact .inr (executes_flag_writer hi hmem)

/-- Settles O53, by what STEP does in each run state. -/
theorem runStateTransitions : Obligations.RunStateTransitions := by
  refine fun s t h => ⟨fun hrun hwait => ?_, fun hrun hdown => ?_, fun hrun hup => ?_, fun hrun => ?_⟩
  · obtain ⟨hrun', -⟩ | ⟨hrun', -⟩ | ⟨-, hhalt, -⟩ | ⟨i, hi, ht⟩ := step_cases h
    · simp [hrun] at hrun'
    · simp [hrun] at hrun'
    · simp [hwait] at hhalt
    · obtain ⟨x, rfl, hx, hup⟩ := exec_begins_wait ht hrun hwait
      exact ⟨⟨x, hi, hx⟩, hup⟩
  · obtain ⟨k, hresume⟩ := waitStep_of_keyDown hdown
    rw [step_of_awaitingKey hrun, hresume] at h
    cases h
    rfl
  · rw [step_of_awaitingKey hrun, waitStep_of_noKeyDown hup] at h
    cases h
    exact hrun
  · rw [step_of_halted hrun] at h
    cases h
    exact hrun

/-- Settles O54: Cxkk is the one writer of `draws`. -/
theorem drawCounterCountsDraws : Obligations.DrawCounterCountsDraws := by
  refine ⟨fun s t h => ⟨fun x kk hi => ?_, fun hnot => by_contra fun hne => ?_⟩, fun tr s hstep => ?_⟩
  · rw [hi.step_eq] at h
    cases h
    rfl
  · obtain ⟨i, hi, -, hmem⟩ := step_writer (p := .draws) h (by decide) hne
    obtain ⟨x, kk, rfl⟩ := eq_of_draws_mem hmem
    exact hnot x kk hi
  · cases tr with
    | construct => exact ⟨_, rfl, rfl⟩
    | load rom => exact ⟨_, rfl, load_draws hwParams rom s⟩
    | step => exact absurd rfl hstep
    | tick => exact ⟨_, rfl, rfl⟩
    | setKey k p => exact ⟨_, rfl, rfl⟩

/-- Settles O43: the ticks by induction, and each timer's one writer. -/
theorem timersCountTicksNotSteps : Obligations.TimersCountTicksNotSteps := by
  refine ⟨runTransactions_ticks, fun s t h hnot => by_contra fun hne => ?_, fun s t h hnot => by_contra fun hne => ?_⟩
  · obtain ⟨i, hi, -, hmem⟩ := step_writer (p := .dt) h (by decide) hne
    obtain ⟨x, rfl⟩ := eq_of_dt_mem hmem
    exact hnot x hi
  · obtain ⟨i, hi, -, hmem⟩ := step_writer (p := .st) h (by decide) hne
    obtain ⟨x, rfl⟩ := eq_of_st_mem hmem
    exact hnot x hi

/-- Settles O39: without a pressed key a WaitStep changes nothing. -/
theorem waitNeedsAKeyPress : Obligations.WaitNeedsAKeyPress := fun _ _ hwait hup hts =>
  runTransactions_of_awaitingKey hwait hup hts

/-- Settles O10, by the run state. -/
theorem stepResultReadsRunState : Obligations.StepResultReadsRunState := by
  intro s
  cases h : s.runState <;> simp [State.stepResult, h]

/-- Settles O17: the target is A, which undoes the advance. -/
theorem parkedLoopStandsStill : Obligations.ParkedLoopStandsStill := by
  intro s nnn hi hpc
  have htarget : zextAddr nnn = s.pc := BitVec.eq_of_toNat_eq ((zextAddr_toNat nnn).trans hpc)
  rw [hi.step_eq, exec, execJp, htarget]
  rfl

/-- Settles O45: each output is read from its field, and the codes are those of R40 and R211. -/
theorem outputsReadTheState : Obligations.OutputsReadTheState := by
  refine ⟨fun s => ⟨?_, fun _ _ => rfl, fun _ => rfl, rfl⟩, by decide, by decide⟩
  rw [State.soundOn, decide_eq_true_iff, ne_eq, ← BitVec.toNat_inj]
  rfl

end Sys2Proof.Proofs
end

section
/-! PROOFS. Two instructions in a row: what Fx55 stores is what Fx65 loads (42_index_memory.md R164, R165) and what the
next STEP fetches (20_memory.md R68). -/

namespace Sys2Proof.Machine

theorem State.opcodeAtPc_toNat (s : State) :
    s.opcodeAtPc.toNat = (s.byteAt s.pc.toNat).toNat * 256 + (s.byteAt (s.pc.toNat + 1)).toNat := by
  have hhi := (s.byteAt s.pc.toNat).isLt
  have hlo := (s.byteAt (s.pc.toNat + 1)).isLt
  rw [State.opcodeAtPc, BitVec.toNat_ofNat]
  exact Nat.mod_eq_of_lt (by omega)

theorem State.Executes.fetchable {s : State} {i : Instr} (h : s.Executes i) : Fetchable s.pc := by
  obtain ⟨-, hpc, -⟩ := h
  exact hpc

/-- What the STEP after an instruction that leaves PC fetches, once every byte of memory is known. -/
theorem opcodeAtPc_after {s t : State} {byte : Nat → Nat} (hpc : Fetchable s.pc) (ht : t.pc = s.pc + 2)
    (hbyte : ∀ a, (t.byteAt a).toNat = byte a) :
    t.opcodeAtPc.toNat = byte (s.pc.toNat + 2) * 256 + byte (s.pc.toNat + 3) := by
  obtain ⟨-, hend, -⟩ := hpc
  rw [t.opcodeAtPc_toNat, ht, pc_add_two_toNat (by omega), hbyte, hbyte]

/-- R164 on this hardware. -/
theorem execLdMemVx_answers {x : Reg} {s : State} (hmem : Memory.wf hwParams s.mem = true) (hlow : 0x200 ≤ s.i.toNat)
    (hin : s.i.toNat + x.val ≤ 0xFFF) :
    ∃ t, exec (.ldMemVx x) s = .next t ∧ (∀ j : Reg, j ≤ x → t.byteAt (s.i.toNat + j.val) = s.getV j) ∧
      (∀ a, a < s.i.toNat ∨ s.i.toNat + x.val < a → t.byteAt a = s.byteAt a) ∧ Unchanged [.mem] s t :=
  ldMemVxWith_answers_of_unchanged (c := hwParams) rfl hin (fun _ => hlow) hmem

/-- Every byte after Fx55, as one function of its address. -/
theorem byteAt_of_bulkStore {x : Reg} {s t : State}
    (hstored : ∀ j : Reg, j ≤ x → t.byteAt (s.i.toNat + j.val) = s.getV j)
    (hother : ∀ a, a < s.i.toNat ∨ s.i.toNat + x.val < a → t.byteAt a = s.byteAt a) (a : Nat) :
    t.byteAt a =
      if s.i.toNat ≤ a ∧ a ≤ s.i.toNat + x.val then s.getV (Fin.ofNat 16 (a - s.i.toNat)) else s.byteAt a := by
  split
  case isTrue hrange =>
    obtain ⟨hlow, hhigh⟩ := hrange
    have hj : (Fin.ofNat 16 (a - s.i.toNat)).val = a - s.i.toNat := Nat.mod_eq_of_lt (by omega)
    rw [← hstored _ (Fin.le_def.mpr (by omega)), hj, Nat.add_sub_cancel' hlow]
  case isFalse hrange => exact hother a (by omega)

/-- Every byte after Fx33, as one function of its address. -/
theorem byteAt_of_decimalStore {s t : State} {d0 d1 d2 : Nat} (h0 : (t.byteAt s.i.toNat).toNat = d0)
    (h1 : (t.byteAt (s.i.toNat + 1)).toNat = d1) (h2 : (t.byteAt (s.i.toNat + 2)).toNat = d2)
    (hother : ∀ a, a < s.i.toNat ∨ s.i.toNat + 2 < a → t.byteAt a = s.byteAt a) (a : Nat) :
    (t.byteAt a).toNat =
      if a = s.i.toNat then d0 else if a = s.i.toNat + 1 then d1 else if a = s.i.toNat + 2 then d2
      else (s.byteAt a).toNat := by
  split_ifs with ha0 ha1 ha2
  · rw [ha0, h0]
  · rw [ha1, h1]
  · rw [ha2, h2]
  · rw [hother a (by omega)]

end Sys2Proof.Machine
end

section
/-! PROOFS. The sprite drawn a second time, and drawn at coordinates that wrap to the same place (43_display.md R180,
R182). -/

namespace Sys2Proof.Machine

theorem Display.ext_pixel {d e : Display} (h : ∀ py px, d.pixel py px = e.pixel py px) : d = e :=
  Vector.ext fun py hpy => Vector.ext fun px hpx => h ⟨py, hpy⟩ ⟨px, hpx⟩

/-- Each visited pixel is flipped once by each of the two blits. -/
theorem blit_blit {ox oy : Byte} {rows : List Byte} (hlen : rows.length ≤ 32) (d : Display) :
    (blit (blit d ox oy rows).1 ox oy rows).1 = d := by
  refine Display.ext_pixel fun py px => ?_
  simp only [blit, foldl_blitPixel_pixel (nodup_spritePixels hlen), Bool.xor_assoc, Bool.xor_self, Bool.xor_false]

theorem rowPixels_congr {ox oy ox' oy' : Byte} (hx : ox.toNat % 64 = ox'.toNat % 64) (hy : oy.toNat % 32 = oy'.toNat % 32)
    (r : Nat) (row : Byte) : rowPixels ox oy r row = rowPixels ox' oy' r row := by
  have hpy : Fin.ofNat 32 (oy.toNat + r) = Fin.ofNat 32 (oy'.toNat + r) := Fin.ext (Nat.ModEq.add_right r hy)
  have hpx (j : Nat) : Fin.ofNat 64 (ox.toNat + j) = Fin.ofNat 64 (ox'.toNat + j) := Fin.ext (Nat.ModEq.add_right j hx)
  simp only [rowPixels, hpy, hpx]

theorem spritePixels_congr {ox oy ox' oy' : Byte} (hx : ox.toNat % 64 = ox'.toNat % 64)
    (hy : oy.toNat % 32 = oy'.toNat % 32) (r : Nat) (rows : List Byte) :
    spritePixels ox oy r rows = spritePixels ox' oy' r rows := by
  induction rows generalizing r with
  | nil => rfl
  | cons row rows ih => rw [spritePixels, spritePixels, rowPixels_congr hx hy, ih]

theorem blit_congr {ox oy ox' oy' : Byte} (hx : ox.toNat % 64 = ox'.toNat % 64)
    (hy : oy.toNat % 32 = oy'.toNat % 32) (d : Display) (rows : List Byte) :
    blit d ox oy rows = blit d ox' oy' rows := by
  rw [blit, blit, spritePixels_congr hx hy]

/-- A second blit of the same sprite reports a collision where the first one's result has a pixel that was clear. -/
theorem blit_blit_collided {ox oy : Byte} {rows : List Byte} (hlen : rows.length ≤ 32) (d : Display) :
    (blit (blit d ox oy rows).1 ox oy rows).2 = true ↔
      ∃ py px, (blit d ox oy rows).1.pixel py px = true ∧ d.pixel py px = false := by
  rw [blit_collided hlen, blit_blit hlen]

/-- R182 on this hardware, for a sprite inside memory: the blit, its collision flag, and what stays as it is. -/
theorem execDrw_next {x y : Reg} {n : Nibble} {s t : State} (hin : s.i.toNat + n.toNat ≤ 0x1000)
    (h : exec (.drw x y n) s = .next t) :
    let drawn := blit s.disp (s.getV x) (s.getV y) (Memory.readBytes hwParams s.mem s.i.toNat n.toNat)
    t.disp = drawn.1 ∧ t.getV regF = bool01 drawn.2 ∧ t.i = s.i ∧ t.mem = s.mem ∧
      ∀ r, r ≠ regF → t.getV r = s.getV r := by
  have hdraw : exec (.drw x y n) s = _ := drwWith_of_passed hwParams x y (.inr (by omega))
  rw [hdraw] at h
  cases h
  exact ⟨rfl, State.getV_setV_same _ _ _, rfl, rfl, fun r hr => State.getV_setV_of_ne _ _ hr⟩

end Sys2Proof.Machine
end

section
/-! PROOFS. The obligations about two instructions in a row and about two draws. -/

namespace Sys2Proof.Proofs

open Sys2Proof.Machine

/-- Settles O30: the load reads each byte where the store left it. -/
theorem bulkLoadUndoesBulkStore : Obligations.BulkLoadUndoesBulkStore := by
  intro x s t regs hmem hlow hin ht
  obtain ⟨t', ht', hstored, -, hframe⟩ := execLdMemVx_answers hmem hlow hin
  obtain rfl : t' = t := Host.Outcome.next.inj (ht'.symm.trans ht)
  have hindex : t'.i = s.i := unchanged_iff.mp hframe .index (by decide)
  have hload := ldVxMemWith_of_passed (s := { t' with v := regs }) hwParams (hindex ▸ hin)
  have hread (j : Reg) := State.getV_loadRegs { t' with v := regs } hwParams t'.i.toNat x j
  refine ⟨_, hload, fun j hj => ?_, fun j hj => ?_⟩
  · exact (hread j).trans ((if_pos hj).trans (hindex ▸ hstored j hj))
  · exact (hread j).trans (if_neg (not_le.mpr hj))

/-- Settles O31: after the store every byte of memory is known, and PC is the successor's address. -/
theorem storedCodeIsFetched : Obligations.StoredCodeIsFetched := by
  refine fun x s t hmem hlow hstep => ⟨fun hi hin => ?_, fun hi hin => ?_⟩
  · intro byte
    obtain ⟨u, hu, hstored, hother, hframe⟩ := execLdMemVx_answers (s := s.advance) hmem hlow hin
    obtain rfl : u = t := Host.Outcome.next.inj (hu.symm.trans (hi.step_eq.symm.trans hstep))
    have hpc : u.pc = s.pc + 2 := unchanged_iff.mp hframe .pc (by decide)
    have hbyte : ∀ a, u.byteAt a = byte a := byteAt_of_bulkStore hstored hother
    exact ⟨hpc, opcodeAtPc_after (byte := fun a => (byte a).toNat) hi.fetchable hpc fun a => by rw [hbyte]⟩
  · intro byte
    obtain ⟨u, hu, h0, h1, h2, hother, hframe⟩ :=
      ldBVxWith_answers (c := hwParams) (x := x) (s := s.advance) hmem hin fun _ => hlow
    obtain rfl : u = t := Host.Outcome.next.inj (hu.symm.trans (hi.step_eq.symm.trans hstep))
    have hpc : u.pc = s.pc + 2 := unchanged_iff.mp hframe .pc (by decide)
    have hbyte : ∀ a, (u.byteAt a).toNat = byte a := byteAt_of_decimalStore h0 h1 h2 hother
    exact ⟨hpc, opcodeAtPc_after (byte := byte) hi.fetchable hpc hbyte⟩

/-- Settles O34: VF is not an operand, so the second draw is the first one's blit over its result. -/
theorem drawTwiceRestores : Obligations.DrawTwiceRestores := by
  intro x y n s t u hx hy hin ht hu
  obtain ⟨htdisp, -, hti, htmem, htv⟩ := execDrw_next hin ht
  obtain ⟨hudisp, huflag, -⟩ := execDrw_next (hti ▸ hin) hu
  rw [htv x hx, htv y hy, hti, htmem, htdisp] at hudisp huflag
  have hlen : (Memory.readBytes hwParams s.mem s.i.toNat n.toNat).length ≤ 32 := by
    rw [Memory.readBytes_length]
    omega
  have hcol := blit_blit_collided (ox := s.getV x) (oy := s.getV y) hlen s.disp
  rw [← htdisp] at hcol huflag
  refine ⟨hudisp.trans (blit_blit hlen s.disp), fun ⟨py, px, hbefore, hafter⟩ => ?_, fun hnone => ?_⟩
  · rw [huflag, hcol.mpr ⟨py, px, hafter, hbefore⟩]
    rfl
  · have hclear : (blit t.disp (s.getV x) (s.getV y) (Memory.readBytes hwParams s.mem s.i.toNat n.toNat)).2 = false := by
      refine Bool.eq_false_iff.mpr fun h => ?_
      obtain ⟨py, px, hafter, hbefore⟩ := hcol.mp h
      exact absurd (hnone py px hafter) (Bool.eq_false_iff.mp hbefore)
    rw [huflag, hclear]
    rfl

/-- Settles O35: the sprite visits the same pixels of the same display. -/
theorem drawCoordinatesWrap : Obligations.DrawCoordinatesWrap := by
  intro x y n s s' t t' hs' hx hy hin ht ht'
  have hi : s'.i = s.i := by rw [hs']
  have hmem : s'.mem = s.mem := by rw [hs']
  have hdisp : s'.disp = s.disp := by rw [hs']
  obtain ⟨htdisp, htflag, -⟩ := execDrw_next hin ht
  obtain ⟨htdisp', htflag', -⟩ := execDrw_next (hi ▸ hin) ht'
  rw [hi, hmem, hdisp, ← blit_congr hx hy] at htdisp' htflag'
  exact ⟨htdisp.trans htdisp'.symm, htflag.trans htflag'.symm⟩

end Sys2Proof.Proofs
end

section
/-! PROOFS. What no STEP reads: ST (10_state.md, the sound timer) and the stack entries at SP and above (the call
stack). Changing them before a STEP is changing them after it. -/

namespace Sys2Proof.Machine

/-- The state with the stack and ST changed by a function each: a change of one of them has `id` for the other. -/
def State.alter (g : Vector Word 16 → Vector Word 16) (h : Byte → Byte) (s : State) : State :=
  { s with stack := g s.stack, st := h s.st }

/-- An answer with its next state changed; a stop stays as it is. -/
def mapNext (f : State → State) : Result → Result
  | .next t => .next (f t)
  | .fault r => .fault r
  | .refused r => .refused r

section
variable {g : Vector Word 16 → Vector Word 16} {h : Byte → Byte} {s : State}

theorem alter_skipIf (b : Bool) : (s.alter g h).skipIf b = (s.skipIf b).alter g h := by
  cases b <;> rfl

theorem guarded_alter {check : Option (FaultKind × Word)} {i : Instr} {effect effect' : State}
    (heffect : effect' = effect.alter g h) :
    guarded check i (s.alter g h) effect' = mapNext (State.alter g h) (guarded check i s effect) := by
  subst heffect
  cases check <;> rfl

theorem execLdVxK_alter (x : Reg) : execLdVxK x (s.alter g h) = mapNext (State.alter g h) (execLdVxK x s) := by
  unfold execLdVxK
  cases hpoll : pollAny hwParams s.key s.keyPrev with
  | some k =>
    rw [ldVxKWith_of_level_of_key x rfl hpoll, ldVxKWith_of_level_of_key (s := s.alter g h) x rfl hpoll]
    rfl
  | none =>
    rw [ldVxKWith_of_level_of_noKey x rfl hpoll, ldVxKWith_of_level_of_noKey (s := s.alter g h) x rfl hpoll]
    rfl

theorem keySkips_alter (x : Reg) :
    execSkp x (s.alter g h) = mapNext (State.alter g h) (execSkp x s) ∧
    execSknp x (s.alter g h) = mapNext (State.alter g h) (execSknp x s) := by
  have hkey : keyIndex hwParams (s.getV x) = some (lowNibble (s.getV x)) := keyIndex_eq_lowNibble (.inr rfl)
  unfold execSkp execSknp
  rw [skpWith_of_key hkey, skpWith_of_key (s := s.alter g h) hkey, sknpWith_of_key hkey,
    sknpWith_of_key (s := s.alter g h) hkey, alter_skipIf, alter_skipIf]
  exact ⟨rfl, rfl⟩

/-- Only RET and CALL use the stack, and only Fx18 uses ST. -/
theorem exec_alter {i : Instr} (hret : i ≠ .ret) (hcall : ∀ nnn, i ≠ .call nnn) (hst : ∀ x, i ≠ .ldStVx x) :
    exec i (s.alter g h) = mapNext (State.alter g h) (exec i s) := by
  cases i
  case ret => exact absurd rfl hret
  case call nnn => exact absurd rfl (hcall nnn)
  case ldStVx x => exact absurd rfl (hst x)
  case seKk | sneKk | seVy | sneVy => exact congrArg Host.Outcome.next (alter_skipIf _)
  case skp x => exact (keySkips_alter x).1
  case sknp x => exact (keySkips_alter x).2
  case ldVxK x => exact execLdVxK_alter x
  case drw | ldBVx | ldMemVx | ldVxMem => exact guarded_alter rfl
  all_goals rfl

theorem waitStep_alter : waitStep hwParams (s.alter g h) = (waitStep hwParams s).alter g h := by
  cases hpoll : pollAny hwParams s.key s.keyPrev with
  | some k =>
    rw [waitStep_of_key hpoll, waitStep_of_key (s := s.alter g h) hpoll]
    rfl
  | none =>
    rw [waitStep_of_noKey hpoll, waitStep_of_noKey (s := s.alter g h) hpoll]
    rfl

theorem State.Executes.alter {i : Instr} (hi : s.Executes i) : (s.alter g h).Executes i := hi

/-- The cycle itself uses neither, so a STEP is as its instruction is. -/
theorem step_alter
    (hexec : ∀ i, s.Executes i → exec i (s.advance.alter g h) = mapNext (State.alter g h) (exec i s.advance)) :
    step (s.alter g h) = mapNext (State.alter g h) (step s) := by
  cases hrun : s.runState with
  | halted =>
    rw [step_of_halted hrun, step_of_halted (s := s.alter g h) hrun]
    rfl
  | awaitingKey =>
    rw [step_of_awaitingKey hrun, step_of_awaitingKey (s := s.alter g h) hrun, waitStep_alter]
    rfl
  | running =>
    cases hcheck : fetchCheck hwParams s.pc with
    | some f =>
      unfold step
      rw [stepBy_of_fetchFault hrun hcheck, stepBy_of_fetchFault (s := s.alter g h) hrun hcheck]
      rfl
    | none =>
      have hpc := (fetchable_iff s.pc).mpr hcheck
      cases hdec : decodeWord s.opcodeAtPc with
      | none =>
        rw [step_of_unknownOpcode hrun hpc hdec, step_of_unknownOpcode (s := s.alter g h) hrun hpc hdec]
        rfl
      | some i =>
        have hi : s.Executes i := ⟨hrun, hpc, hdec⟩
        rw [hi.step_eq, hi.alter.step_eq]
        exact hexec i hi

end

/-! ### ST -/

theorem execRet_alter_st (h : Byte → Byte) (s : State) :
    execRet (s.alter id h) = mapNext (State.alter id h) (execRet s) := by
  obtain hempty | ⟨j, hentry⟩ | hout := sp_cases_ret s.sp
  · rw [execRet_of_empty hempty, execRet_of_empty (s := s.alter id h) hempty]
    rfl
  · rw [execRet_of_entry hentry, execRet_of_entry (s := s.alter id h) hentry]
    rfl
  · rw [execRet_of_outOfRange hout, execRet_of_outOfRange (s := s.alter id h) hout]
    rfl

theorem execCall_alter_st (nnn : Addr12) (h : Byte → Byte) (s : State) :
    execCall nnn (s.alter id h) = mapNext (State.alter id h) (execCall nnn s) := by
  obtain hfull | ⟨j, hroom⟩ | hout := sp_cases_call s.sp
  · rw [execCall_of_full nnn hfull, execCall_of_full (s := s.alter id h) nnn hfull]
    rfl
  · rw [execCall_of_room nnn hroom, execCall_of_room (s := s.alter id h) nnn hroom]
    rfl
  · rw [execCall_of_outOfRange nnn hout, execCall_of_outOfRange nnn (s := s.alter id h) hout]
    rfl

/-- RET and CALL treat ST as every other instruction does. -/
theorem exec_alter_st {i : Instr} {s : State} (h : Byte → Byte) (hst : ∀ x, i ≠ .ldStVx x) :
    exec i (s.alter id h) = mapNext (State.alter id h) (exec i s) := by
  by_cases hret : i = .ret
  · exact hret ▸ execRet_alter_st h s
  by_cases hcall : ∃ nnn, i = .call nnn
  · obtain ⟨nnn, rfl⟩ := hcall
    exact execCall_alter_st nnn h s
  exact exec_alter hret (not_exists.mp hcall) hst

/-- Fx18 writes ST from a register, so that what it held is lost; any other STEP carries it along. -/
theorem step_set_st (s : State) (b : Byte) :
    step { s with st := b } = mapNext (State.alter id fun _ => b) (step s) ∨
    ∃ u, step s = .next u ∧ step { s with st := b } = .next u := by
  by_cases hst : ∃ x, s.Executes (.ldStVx x)
  · obtain ⟨x, hi⟩ := hst
    have hi' : State.Executes { s with st := b } (.ldStVx x) := hi
    exact .inr ⟨_, hi.step_eq, hi'.step_eq⟩
  · exact .inl (step_alter (g := id) (h := fun _ => b) fun i hi => exec_alter_st _ fun x hx => hst ⟨x, hx ▸ hi⟩)

/-! ### The stack above SP -/

/-- Two stacks have the same entries below `n`. -/
def SameBelow (n : Nat) (stk stk' : Vector Word 16) : Prop := ∀ j : Fin 16, j.val < n → stk'[j.val] = stk[j.val]

/-- The second state is the first but for its stack, which has the same entries below SP. -/
def SameButStale (t t' : State) : Prop := t' = { t with stack := t'.stack } ∧ SameBelow t.sp.toNat t.stack t'.stack

section
variable {s t : State} {stk : Vector Word 16}

/-- RET reads the entry at SP - 1, which is below SP. -/
theorem execRet_sameButStale (hstk : SameBelow s.sp.toNat s.stack stk) (ht : execRet s = .next t) :
    ∃ t', execRet { s with stack := stk } = .next t' ∧ SameButStale t t' := by
  obtain ⟨hempty, rfl⟩ | ⟨j, hentry, rfl⟩ := execRet_cases ht
  · exact ⟨_, execRet_of_empty hempty, rfl, hstk⟩
  · have hpop : (s.sp - 1).toNat = j.val := sp_sub_one_toNat hentry
    have hsame : stk[j.val] = s.stack[j.val] := hstk j (by omega)
    refine ⟨_, execRet_of_entry (s := { s with stack := stk }) hentry, ?_, fun k hk => hstk k ?_⟩
    · rw [hsame]
    · exact (hpop ▸ hk : k.val < j.val).trans (by omega)

/-- CALL writes the entry at SP, which is then below SP. -/
theorem execCall_sameButStale (nnn : Addr12) (hstk : SameBelow s.sp.toNat s.stack stk)
    (ht : execCall nnn s = .next t) :
    ∃ t', execCall nnn { s with stack := stk } = .next t' ∧ SameButStale t t' := by
  obtain ⟨hfull, rfl⟩ | ⟨j, hroom, rfl⟩ := execCall_cases ht
  · exact ⟨_, execCall_of_full (s := { s with stack := stk }) nnn hfull, rfl, hstk⟩
  · refine ⟨_, execCall_of_room (s := { s with stack := stk }) nnn hroom, rfl, fun k hk => ?_⟩
    have hpush : k.val < j.val + 1 := sp_add_one_toNat hroom ▸ hk
    simp only [Vector.getElem_set]
    split
    case isTrue => rfl
    case isFalse hne => exact hstk k (by omega)

/-- A STEP that executes neither CALL nor RET carries the stack along, and SP with it. -/
theorem step_sameButStale_of_noStack (hstk : SameBelow s.sp.toNat s.stack stk) (ht : step s = .next t)
    (hret : ¬s.Executes .ret) (hcall : ¬∃ nnn, s.Executes (.call nnn)) :
    ∃ t', step { s with stack := stk } = .next t' ∧ SameButStale t t' := by
  have hexec (i : Instr) (hi : s.Executes i) :
      exec i (s.advance.alter (fun _ => stk) id) = mapNext (State.alter (fun _ => stk) id) (exec i s.advance) := by
    by_cases hst : ∃ x, i = .ldStVx x
    · obtain ⟨x, rfl⟩ := hst
      rfl
    · exact exec_alter (fun h => hret (h ▸ hi)) (fun nnn h => hcall ⟨nnn, h ▸ hi⟩) (not_exists.mp hst)
  have hstep : step { s with stack := stk } = mapNext (State.alter (fun _ => stk) id) (step s) := step_alter hexec
  rw [ht] at hstep
  have hsp : t.sp = s.sp := by
    by_contra hne
    obtain ⟨i, hi, -, hmem⟩ := step_writer (p := .sp) ht (by decide) hne
    obtain rfl | ⟨nnn, rfl⟩ := eq_of_sp_mem hmem
    · exact hret hi
    · exact hcall ⟨nnn, hi⟩
  have hstack : t.stack = s.stack := by
    by_contra hne
    obtain ⟨i, hi, -, hmem⟩ := step_writer (p := .stack) ht (by decide) hne
    obtain ⟨nnn, rfl⟩ := eq_of_stack_mem hmem
    exact hcall ⟨nnn, hi⟩
  refine ⟨_, hstep, rfl, ?_⟩
  rw [hsp, hstack]
  exact hstk

theorem step_sameButStale (hstk : SameBelow s.sp.toNat s.stack stk) (ht : step s = .next t) :
    ∃ t', step { s with stack := stk } = .next t' ∧ SameButStale t t' := by
  by_cases hret : s.Executes .ret
  · have hret' : State.Executes { s with stack := stk } .ret := hret
    rw [hret.step_eq] at ht
    rw [hret'.step_eq]
    exact execRet_sameButStale (s := s.advance) hstk ht
  by_cases hcall : ∃ nnn, s.Executes (.call nnn)
  · obtain ⟨nnn, hcall⟩ := hcall
    have hcall' : State.Executes { s with stack := stk } (.call nnn) := hcall
    rw [hcall.step_eq] at ht
    rw [hcall'.step_eq]
    exact execCall_sameButStale nnn (s := s.advance) hstk ht
  exact step_sameButStale_of_noStack hstk ht hret hcall

end

end Sys2Proof.Machine
end

section
/-! PROOFS. The obligations about what no STEP reads. -/

namespace Sys2Proof.Proofs

open Sys2Proof.Machine

/-- Settles O55: Fx18 writes ST without a look at it, and every other STEP carries it along. -/
theorem soundTimerIsNeverRead : Obligations.SoundTimerIsNeverRead := by
  intro s b
  obtain hmap | ⟨u, hu, hu'⟩ := step_set_st s b
  · refine ⟨fun t ht => ?_, fun f hf => ?_⟩
    · rw [ht] at hmap
      exact ⟨_, hmap, rfl⟩
    · rw [hf] at hmap
      exact hmap
  · refine ⟨fun t ht => ?_, fun f hf => ?_⟩
    · obtain rfl : u = t := Host.Outcome.next.inj (hu.symm.trans ht)
      exact ⟨u, hu', rfl⟩
    · rw [hu] at hf
      cases hf

/-- Settles O56, by whether the STEP executes CALL, RET or neither. -/
theorem staleStackEntriesAreNeverRead : Obligations.StaleStackEntriesAreNeverRead := fun _ _ _ _ hstk ht =>
  step_sameButStale hstk ht

end Sys2Proof.Proofs
end
